-- ==== Sys2Proof/Word.lean ====
section
/-! DEFINITION. Word types of the dsPIC33E/PIC24E interrupt controller and CPU (spec/00_scope.md R6, R8): registers and
data addresses of 16 bits, program addresses and instruction words of 24 bits, bytes, 40-bit accumulators. -/

namespace Sys2Proof

/-- A register, a data space address or a data word: 16 bits (R6, R8, R81). -/
abbrev Word := BitVec 16

/-- A byte of data space (R81). -/
abbrev Byte := BitVec 8

/-- A program memory address: 24 bits (R8, R20). -/
abbrev PAddr := BitVec 24

/-- An instruction word or an interrupt vector: 24 bits (R80, R111). -/
abbrev PWord := BitVec 24

/-- An accumulator: bits 39 to 0 (R64). -/
abbrev AccWord := BitVec 40

/-- IRQ number n of an interrupt source, 0 to 245 (R11, R205). -/
abbrev Irq := Fin 246

end Sys2Proof
end

