-- ==== Sys2Proof/Syntax.lean ====
section
/-! DEFINITION. The instructions as syntax: one constructor of Instr for each row of spec/opcode_table.json, with the
registers, register fields and operands they name. An instruction without an encoding in the spec is an abstract event
named by its mnemonic and operands (R110; notes/assumptions/3.md). -/

namespace Sys2Proof

/-- The registers software can name in READ and WRITE (R165, R290): those of spec/10_state.md. -/
inductive RegName where
  | w (i : Fin 16)
  | splim | sr | corcon | intcon1 | intcon2 | intcon3 | intcon4
  | ifs (x : Fin 16)
  | iec (x : Fin 16)
  | ipc (x : Fin 62)
  | inttreg | disicnt | rcon | osccon | mstrpr | dsrPage | dswPage | bdtp1 | bdtp2 | bdtp3
  deriving DecidableEq, Repr

/-- The named fields WRITEFIELD can name (R165): the fields the register layouts R23, R26, R31, R41, R46, R47, R51 to R53,
R55 and R59 to R61 print. -/
inductive FieldName where
  -- SR (R23)
  | srOA | srOB | srSA | srSB | srOAB | srSAB | srDA | srDC | srIPL | srRA | srN | srOV | srZ | srC
  -- CORCON (R26)
  | corconVAR | corconUS | corconEDT | corconDL | corconSATA | corconSATB | corconSATDW | corconACCSAT | corconIPL3
  | corconSFA | corconRND | corconIF
  -- INTCON1 (R31)
  | nstdis | ovaerr | ovberr | covaerr | covberr | ovate | ovbte | covte | sftacerr | div0err | dmacerr | matherr | addrerr
  | stkerr | oscfail
  -- INTCON2 (R41)
  | gie | disi | swtrap | int4ep | int3ep | int2ep | int1ep | int0ep
  -- INTCON3 (R46) and INTCON4 (R47)
  | uae | dae | doovr | sght
  -- the interrupt source registers (R51 to R53)
  | ifsBit (x : Fin 16) (b : Fin 16)
  | iecBit (x : Fin 16) (b : Fin 16)
  | ipcField (x : Fin 62) (k : Fin 4)
  -- INTTREG (R55), RCON (R59), OSCCON (R60), MSTRPR (R61)
  | ilr | vecnum | trapr | clockFail | masterPriority
  deriving DecidableEq, Repr

/-- The register a field belongs to. -/
def FieldName.reg : FieldName → RegName
  | .srOA | .srOB | .srSA | .srSB | .srOAB | .srSAB | .srDA | .srDC | .srIPL | .srRA | .srN | .srOV | .srZ | .srC => .sr
  | .corconVAR | .corconUS | .corconEDT | .corconDL | .corconSATA | .corconSATB | .corconSATDW | .corconACCSAT
  | .corconIPL3 | .corconSFA | .corconRND | .corconIF => .corcon
  | .nstdis | .ovaerr | .ovberr | .covaerr | .covberr | .ovate | .ovbte | .covte | .sftacerr | .div0err | .dmacerr
  | .matherr | .addrerr | .stkerr | .oscfail => .intcon1
  | .gie | .disi | .swtrap | .int4ep | .int3ep | .int2ep | .int1ep | .int0ep => .intcon2
  | .uae | .dae | .doovr => .intcon3
  | .sght => .intcon4
  | .ifsBit x _ => .ifs x
  | .iecBit x _ => .iec x
  | .ipcField x _ => .ipc x
  | .ilr | .vecnum => .inttreg
  | .trapr => .rcon
  | .clockFail => .osccon
  | .masterPriority => .mstrpr

/-- The lowest bit of a field. -/
def FieldName.low : FieldName → Nat
  | .srOA => 15 | .srOB => 14 | .srSA => 13 | .srSB => 12 | .srOAB => 11 | .srSAB => 10 | .srDA => 9 | .srDC => 8
  | .srIPL => 5 | .srRA => 4 | .srN => 3 | .srOV => 2 | .srZ => 1 | .srC => 0
  | .corconVAR => 15 | .corconUS => 12 | .corconEDT => 11 | .corconDL => 8 | .corconSATA => 7 | .corconSATB => 6
  | .corconSATDW => 5 | .corconACCSAT => 4 | .corconIPL3 => 3 | .corconSFA => 2 | .corconRND => 1 | .corconIF => 0
  | .nstdis => 15 | .ovaerr => 14 | .ovberr => 13 | .covaerr => 12 | .covberr => 11 | .ovate => 10 | .ovbte => 9
  | .covte => 8 | .sftacerr => 7 | .div0err => 6 | .dmacerr => 5 | .matherr => 4 | .addrerr => 3 | .stkerr => 2
  | .oscfail => 1
  | .gie => 15 | .disi => 14 | .swtrap => 13 | .int4ep => 4 | .int3ep => 3 | .int2ep => 2 | .int1ep => 1 | .int0ep => 0
  | .uae => 6 | .dae => 5 | .doovr => 4
  | .sght => 0
  | .ifsBit _ b => b.val
  | .iecBit _ b => b.val
  | .ipcField _ k => 4 * k.val
  | .ilr => 8 | .vecnum => 0
  | .trapr => 15
  | .clockFail => 3
  | .masterPriority => 0

/-- The width of a field in bits. -/
def FieldName.width : FieldName → Nat
  | .srIPL | .corconDL | .ipcField _ _ | .masterPriority => 3
  | .corconUS => 2
  | .ilr => 4
  | .vecnum => 8
  | _ => 1

/-- The bits of its register that a field covers. -/
def FieldName.mask (f : FieldName) : Word := BitVec.ofNat 16 ((2 ^ f.width - 1) * 2 ^ f.low)

/-- The two accumulators (R64). -/
inductive AccName where
  | a | b
  deriving DecidableEq, Repr

/-- The shift amount of SFTAC: "a literal value or a value in one of the W registers" (R157, R115). DESIGN CHOICE: a literal is
a signed 16-bit number; its width is not in the source (notes/assumptions/37.md). -/
inductive ShiftAmount where
  | lit (k : Word)
  | reg (i : Fin 16)
  deriving DecidableEq, Repr

/-- The two modes PWRSAV selects (R151, R114). -/
inductive LowPower where
  | sleep | idle
  deriving DecidableEq, Repr

/-- Where an instruction that accesses data finds its operand (R91 to R94, R162, R166): a working register itself, the
data space address Wi plus a signed displacement, exact, a data space address, or an address of paged addressing, PSV
accesses included (R93). The forms are the model's (notes/assumptions/4.md). -/
inductive Operand where
  | reg (i : Fin 16)
  | indirect (i : Fin 16) (disp : Int)
  | direct (ea : Word)
  | paged (ea : Word)
  deriving DecidableEq, Repr

/-- The instructions: one constructor per row of spec/opcode_table.json. DESIGN CHOICE: BTSC and BTSS name the bit they test by
a constant number from 0 to 15; the source gives them no operands (R115; notes/assumptions/36.md). -/
inductive Instr where
  | nop
  | goto (target : PAddr)
  | ret
  | retfie
  | bra (offset : Word)
  | disi (k : BitVec 14)
  | reset
  | pwrsav (m : LowPower)
  | rept
  | div (divisor : Fin 16)
  | sftac (acc : AccName) (amount : ShiftAmount)
  | doLoop
  | movD (src : Operand) (dst : Fin 16)
  | tblrd (dst : Fin 16)
  | btsc (src : Operand) (bit : Fin 16)
  | btss (src : Operand) (bit : Fin 16)
  | read (r : RegName)
  | write (r : RegName) (v : Word)
  | writeField (f : FieldName) (v : Word)
  deriving DecidableEq, Repr

/-- Whether the spec gives the instruction an encoding (R112). -/
def Instr.encoded : Instr → Bool
  | .nop | .goto _ | .ret | .retfie | .bra _ | .disi _ | .reset | .pwrsav _ => true
  | .rept | .div _ | .sftac _ _ | .doLoop | .movD _ _ | .tblrd _ | .btsc _ _ | .btss _ _ | .read _ | .write _ _
  | .writeField _ _ => false

end Sys2Proof
end

