-- ==== Sys2Proof/WellFormed.lean ====
section
/-! DEFINITION. The checks on an instruction's operands that its type does not already make. -/

namespace Sys2Proof

/-- A GOTO target has bit 0 clear and lies in the 23 bits its encoding holds (R112); the value of a field write fits the
field (R165); the register pair of MOV.D does not run past W15. -/
def Instr.wellFormed : Instr → Bool
  | .goto target => !target.getLsbD 0 && !target.getLsbD 23
  | .writeField f v => v.toNat < 2 ^ f.width
  | .movD _ dst => dst.val < 15
  | .nop | .ret | .retfie | .bra _ | .disi _ | .reset | .pwrsav _ | .rept | .div _ | .sftac _ _ | .doLoop | .tblrd _
  | .btsc _ _ | .btss _ _ | .read _ | .write _ _ => true

end Sys2Proof
end

