-- ==== Sys2Proof/Decode.lean ====
section
/-! DEFINITION. The decoder from 24-bit instruction words, total and rejecting by name, and after it the encoder, both
from the table of spec/30_encoding.md R112. Every encoding of that table is general knowledge of the spec
(notes/assumptions/5.md). An instruction the spec gives no encoding has none here (R110). -/

namespace Sys2Proof

/-- One row of R112: an instruction word belongs to the row when its bits under the mask are the match value. -/
structure OpRow where
  matchBits : PWord
  mask      : PWord
  deriving DecidableEq, Repr

def OpRow.hits (r : OpRow) (w : PWord) : Bool := w &&& r.mask == r.matchBits

def OpRow.nop : OpRow := ⟨0x000000#24, 0xFF0000#24⟩
def OpRow.goto : OpRow := ⟨0x040000#24, 0xFF0001#24⟩
def OpRow.ret : OpRow := ⟨0x060000#24, 0xFFFFFF#24⟩
def OpRow.retfie : OpRow := ⟨0x064000#24, 0xFFFFFF#24⟩
def OpRow.bra : OpRow := ⟨0x370000#24, 0xFF0000#24⟩
def OpRow.disi : OpRow := ⟨0xFC0000#24, 0xFFC000#24⟩
def OpRow.reset : OpRow := ⟨0xFE0000#24, 0xFFFFFF#24⟩
def OpRow.pwrsav : OpRow := ⟨0xFE4000#24, 0xFFFFFE#24⟩

/-- The second word of GOTO: bits 23 to 7 are 0 (R112, opcode_table.json "word2_mask"). -/
def OpRow.gotoSecond : OpRow := ⟨0x000000#24, 0xFFFF80#24⟩

/-- The rows of R112 for a first word, in the table's order. -/
def opTable : List OpRow :=
  [OpRow.nop, OpRow.goto, OpRow.ret, OpRow.retfie, OpRow.bra, OpRow.disi, OpRow.reset, OpRow.pwrsav]

/-- Why the decoder rejects. -/
inductive DecodeError where
  /-- no word to decode -/
  | empty
  /-- the first word belongs to no row of R112 -/
  | noSuchOpcode
  /-- a GOTO whose second word is missing -/
  | gotoTruncated
  /-- a GOTO whose second word has a bit set that R112 prints as 0 -/
  | gotoSecondWord
  deriving DecidableEq, Repr

/-- What the decoder answers: an instruction and the words after it, or a rejection. -/
inductive Decoded where
  | ok (i : Instr) (rest : List PWord)
  | reject (why : DecodeError)
  deriving DecidableEq, Repr

/-- GOTO's target: bits 15 to 1 from word 1, bits 22 to 16 from word 2 bits 6 to 0, bit 0 zero (R112). -/
def gotoTarget (w1 w2 : PWord) : PAddr := 0#1 ++ w2.extractLsb' 0 7 ++ w1.extractLsb' 1 15 ++ 0#1

/-- PWRSAV's operand: 0 Sleep, 1 Idle (R114). -/
def lowPowerOfBit (b : Bool) : LowPower := if b then .idle else .sleep

/-- The instruction of the first words, and the words after it. -/
def decode : List PWord → Decoded
  | [] => .reject .empty
  | w :: rest =>
    if OpRow.nop.hits w then .ok .nop rest
    else if OpRow.goto.hits w then
      match rest with
      | [] => .reject .gotoTruncated
      | w2 :: rest2 => if OpRow.gotoSecond.hits w2 then .ok (.goto (gotoTarget w w2)) rest2 else .reject .gotoSecondWord
    else if OpRow.ret.hits w then .ok .ret rest
    else if OpRow.retfie.hits w then .ok .retfie rest
    else if OpRow.bra.hits w then .ok (.bra (w.extractLsb' 0 16)) rest
    else if OpRow.disi.hits w then .ok (.disi (w.extractLsb' 0 14)) rest
    else if OpRow.reset.hits w then .ok .reset rest
    else if OpRow.pwrsav.hits w then .ok (.pwrsav (lowPowerOfBit (w.getLsbD 0))) rest
    else .reject .noSuchOpcode

/-- How many words the instruction with this first word has: two for GOTO, one for every other (R111). -/
def wordCount (w : PWord) : Nat := if OpRow.goto.hits w then 2 else 1

/-- How many program words an instruction takes; an abstract instruction takes one (notes/assumptions/3.md). -/
def Instr.words : Instr → Nat
  | .goto _ => 2
  | _ => 1

/-- The words of an instruction, from R112; none where the spec gives no encoding. The ignored bits of NOP are written 0. -/
def encode : Instr → Option (List PWord)
  | .nop => some [0x000000#24]
  | .goto target => some [0x04#8 ++ target.extractLsb' 1 15 ++ 0#1, 0#17 ++ target.extractLsb' 16 7]
  | .ret => some [0x060000#24]
  | .retfie => some [0x064000#24]
  | .bra offset => some [0x37#8 ++ offset]
  | .disi k => some [0x3F0#10 ++ k]
  | .reset => some [0xFE0000#24]
  | .pwrsav .sleep => some [0xFE4000#24]
  | .pwrsav .idle => some [0xFE4001#24]
  | .rept | .div _ | .sftac _ _ | .doLoop | .movD _ _ | .tblrd _ | .btsc _ _ | .btss _ _ | .read _ | .write _ _
  | .writeField _ _ => none

/-- The words of an instruction whose bits the opcode table numbers from bit 0 of the first word: word k is bits
24k+23 to 24k. Every bit above `nbits` is 0. -/
def tableWords (nbits w : Nat) : List PWord :=
  [BitVec.ofNat 24 (w % 2 ^ nbits), BitVec.ofNat 24 (w % 2 ^ nbits / 2 ^ 24)]

/-- The instruction the decoder reads from an instruction numbered as spec/opcode_table.json numbers its bits. -/
def decodeTableWord (nbits w : Nat) : Option Instr :=
  match decode (tableWords nbits w) with
  | .ok i _ => some i
  | .reject _ => none

end Sys2Proof
end

