-- ==== Sys2Proof/Config.lean ====
section
/-! DEFINITION. What a device variant fixes (spec/00_scope.md section 5) as plain data, and the free values of the model as
opaque constants without a body. The parameters stand in a record that State carries and no step changes, so that every
statement over all states is a statement over all devices (notes/assumptions/1.md). -/

namespace Sys2Proof

/-- The seven trap sources of R201. -/
inductive Trap where
  | oscillator | address | genericHard | stack | math | dmac | genericSoft
  deriving DecidableEq, Repr

/-- An inclusive range of addresses. -/
structure AddrRange where
  first : Nat
  last  : Nat
  deriving DecidableEq, Repr

/-- Auxiliary Flash (R86, R87): where it lies, the location of its single vector, and the reset location when
RESET_IN_AUX moves it there. -/
structure AuxFlash where
  range       : AddrRange
  vectorAddr  : PAddr
  resetAddr   : Option PAddr
  deriving DecidableEq, Repr

/-- SAME_LEVEL_HARD_TRAP of R272: what a hard trap event does when the CPU is at that trap's own level. -/
inductive SameLevel where
  | pend | reset
  deriving DecidableEq, Repr

/-- TrapVector(t) of R202: the vector number, 0 to 7, of each trap source; `Config.wf` says that no two are the same. -/
structure TrapVectors where
  oscillator  : Fin 8
  address     : Fin 8
  genericHard : Fin 8
  stack       : Fin 8
  math        : Fin 8
  dmac        : Fin 8
  genericSoft : Fin 8
  deriving DecidableEq, Repr

/-- The parameters of spec/00_scope.md section 5 that the source leaves to the device, and the facts of R156, R157 and
R161 that no source gives and that are the same for the whole of a run. -/
structure Config where
  /-- ProgImplemented (R90). -/
  progRanges : List AddrRange
  /-- DataImplemented (R90); addresses above 0xFFFF are those only another bus master can form. -/
  dataRanges : List AddrRange
  /-- The Y data space of R82; X space is the rest. -/
  yRanges : List AddrRange
  /-- Addr(reg): the even data address of each register that lies in data space, by rising address (R81, N6). -/
  registers : List (Nat × RegName)
  /-- IrqImplemented(n) is bit n (R50, D24). -/
  irqImpl : BitVec 246
  /-- TrapVector (R202). -/
  trapVectors : TrapVectors
  /-- TrapLevel(GenericSoft) is 9 when true and 8 when false (R203, D5). -/
  genericSoftIs9 : Bool
  /-- MASK_WRITE_LAG (R231, D6). -/
  maskWriteLag : Bool
  /-- SAME_LEVEL_HARD_TRAP (R272, D12). -/
  sameLevel : SameLevel
  /-- Whether the post-increment of W15 past 0xFFFF, and an EA computation through W15 that falls below 0, count as the
  wrap of R94 (c) (spec/95_test_vectors.md 2.10 row 12: not settled by the source). -/
  pushWraps : Bool
  belowZeroWraps : Bool
  /-- WRITE_UNIMPL_TRAPS (R92, D26). -/
  writeUnimplTraps : Bool
  hasDma : Bool
  hasUsb : Bool
  hasDsp : Bool
  /-- HAS_AUX_FLASH and its addresses (R86). -/
  aux : Option AuxFlash
  /-- IrqOf(INTk) of R283. -/
  intIrq : Vector Irq 5
  /-- The bounds of CyclesOf for every instruction whose count the spec does not give (R134, D7). -/
  minCycles : Nat
  maxCycles : Nat
  /-- The registers a divide instruction writes its quotient and remainder to (R156: not in the source). -/
  quotientReg : Fin 16
  remainderReg : Fin 16
  /-- Whether SFTAC shifts right for a positive amount, and whether its right shift keeps the sign (R157: not in the
  source). -/
  sftacPositiveRight : Bool
  sftacKeepsSign : Bool
  /-- The bit value on which BTSC and BTSS skip (R161: not in the source). -/
  btscSkipsOn : Bool
  btssSkipsOn : Bool
  deriving DecidableEq, Repr

/-- The k-th draw of a run: every `draw(S)` of the spec that no rule constrains further takes its value from here, at the
counter State holds (R9; notes/assumptions/2.md). It has no body: no proof can know a value of it. -/
opaque Config.freeNat : Nat → Nat

/-- The 32-bit Buffer Descriptor Table address held in UxBDTP1 to UxBDTP3: how the three registers make it is not in the
source (R63, R273; notes/assumptions/28.md). -/
opaque Config.bdtAddress : Word → Word → Word → BitVec 32

/-- The vector numbers of the seven trap sources. -/
def TrapVectors.numbers (v : TrapVectors) : List (Fin 8) :=
  [v.oscillator, v.address, v.genericHard, v.stack, v.math, v.dmac, v.genericSoft]

/-- Whether addresses rise strictly. -/
def addressesRise : List Nat → Bool
  | [] => true
  | a :: rest => rest.all (fun b => decide (a < b)) && addressesRise rest

/-- What the rules require of the parameters: "A unique vector for each interrupt or exception source" (R2, R202), every
instruction takes at least 1 cycle (R10), and each register has an even address of its own inside data space (R81). -/
def Config.wf (c : Config) : Bool :=
  decide (c.trapVectors.numbers.Nodup) && decide (1 ≤ c.minCycles) && decide (c.minCycles ≤ c.maxCycles)
    && addressesRise (c.registers.map (·.1)) && c.registers.all (fun r => decide (r.1 % 2 = 0 ∧ r.1 < 0x10000))

/-- The trap vector positions of R202 (general knowledge of the spec, G6). -/
def TrapVectors.family : TrapVectors :=
  { oscillator := 0, address := 1, genericHard := 2, stack := 3, math := 4, dmac := 5, genericSoft := 6 }

/-- The registers of a family by index, two address units apart. -/
def registersFrom (base n : Nat) (name : Fin n → RegName) : List (Nat × RegName) :=
  (List.finRange n).map (fun x => (base + 2 * x.val, name x))

/-- The addresses the registers have on the dsPIC33E/PIC24E family: PRESUMED, the source gives none (N6;
notes/assumptions/33.md). -/
def Config.familyRegisters : List (Nat × RegName) :=
  registersFrom 0x0000 16 RegName.w
    ++ [(0x0020, .splim), (0x0032, .dsrPage), (0x0034, .dswPage), (0x0042, .sr), (0x0044, .corcon), (0x0052, .disicnt),
        (0x0058, .mstrpr), (0x04A0, .bdtp1), (0x04AA, .bdtp2), (0x04AC, .bdtp3), (0x0740, .rcon), (0x0742, .osccon)]
    ++ registersFrom 0x0800 16 RegName.ifs ++ registersFrom 0x0820 16 RegName.iec ++ registersFrom 0x0840 62 RegName.ipc
    ++ [(0x08C0, .intcon1), (0x08C2, .intcon2), (0x08C4, .intcon3), (0x08C6, .intcon4), (0x08C8, .inttreg)]

/-- The device that State.reset names: the implemented program and data memory of the spec's own programs
(spec/95_test_vectors.md section 4), every interrupt source but the two reserved ones of R204, the recommended
MASK_WRITE_LAG of D6, the family's register addresses. A DESIGN CHOICE (notes/assumptions/1.md); no statement over all
states rests on it. -/
def Config.specDevice : Config :=
  { progRanges := [⟨0x000000, 0x0003FF⟩]
    dataRanges := [⟨0x1000, 0x1FFF⟩]
    yRanges := []
    registers := Config.familyRegisters
    irqImpl := ~~~(3#246 <<< 87)
    trapVectors := TrapVectors.family
    genericSoftIs9 := false
    maskWriteLag := true
    sameLevel := .pend
    pushWraps := false
    belowZeroWraps := false
    writeUnimplTraps := true
    hasDma := true
    hasUsb := true
    hasDsp := true
    aux := none
    intIrq := #v[0, 20, 29, 53, 54]
    minCycles := 1
    maxCycles := 2
    quotientReg := 0
    remainderReg := 1
    sftacPositiveRight := true
    sftacKeepsSign := true
    btscSkipsOn := false
    btssSkipsOn := true }

end Sys2Proof
end

