-- ==== Sys2Proof/Machine/State.lean ====
section
/-! DEFINITION. The state of the machine as plain data: every piece of state spec/10_state.md gives it, the two memories,
the events of the other agents that are still to come, and the counter of the free values; why a step can stop; and the
state right after reset (R75). -/

namespace Sys2Proof.Machine

/-- Why the machine stops with a fault. Both are safe: the model stops where a chip goes on in a way no rule gives. -/
inductive Fault where
  /-- Raised by RETFIE, RETURN, MOV.D, BTSC, BTSS and an instruction outside the table: the instruction reads a data memory
  byte that nothing has written (R75, D16: "a read of such an item before it is written is a fault in the model"). Safe. -/
  | readOfUnwrittenMemory
  /-- Raised by the fetch: `pc` points to unimplemented program memory and the address error trap cannot be entered
  because `cpu_ipl` is 13 or above (U14: "the model is *stuck*"). Safe. -/
  | stuckAtUnimplementedPc
  deriving DecidableEq, Repr

/-- Why the model gives no meaning. Each is safe: the model stops. -/
inductive Refusal where
  /-- Raised by exec's arm of an instruction whose meaning is not written. Safe. -/
  | notModelled (mnemonic : String)
  /-- Raised by the fetch: the words at `pc` are no instruction of the spec (R116: "must refuse"). Safe. -/
  | illegalInstruction
  /-- Raised by the fetch: the abstract instruction placed at `pc` has an encoding of its own or is not well formed. Safe. -/
  | illFormedSlot
  /-- Raised by the fetch: `pc` points to implemented program memory into which no word was programmed. Safe. -/
  | unprogrammedSlot
  /-- Raised by the entry sequence: the vector slot was never programmed (U12: "*refuse*"). Safe. -/
  | unprogrammedVector
  /-- Raised by the entry sequence: the vector word has bit 0 or bit 23 set (U4: "*refuse*"). Safe. -/
  | vectorNotAnAddress
  /-- Raised by WRITE, WRITEFIELD and a data write at the address of INTCON2: the write would change the status bit
  INTCON2.DISI (U6: "*refuse* a write that would change the bit"). Safe. -/
  | writeOfDisiBit
  /-- Raised by SFTAC on a device without accumulators (HAS_DSP false, R164, R116): the instruction does not exist there.
  Safe. -/
  | noAccumulators
  deriving DecidableEq, Repr

/-- `power_mode` of R68. -/
inductive PowerMode where
  | run | sleep | idle
  deriving DecidableEq, Repr

/-- The direction of an edge on an external interrupt pin (R283). -/
inductive Edge where
  | rising | falling
  deriving DecidableEq, Repr

/-- X or Y data space (R82). -/
inductive DataSpace where
  | x | y
  deriving DecidableEq, Repr

/-- An event of an agent other than the CPU (R200): the peripherals, the pins, the oscillator monitor, the DMA controller,
the USB module, the Reset logic; and the end of a DO loop, which the loop hardware finds and no instruction (R65). -/
inductive Event where
  /-- IrqEvent(n) -/
  | irq (n : Irq)
  /-- ExtEdge(k, direction) -/
  | extEdge (k : Fin 5) (dir : Edge)
  /-- OscFail -/
  | oscFail
  /-- a DMA write of one byte that does not coincide with a CPU write (R100, R101); DmaAddrErr when unimplemented (R274) -/
  | dmaByte (ea : Word) (v : Byte)
  /-- the same of the aligned word at twice the operand, as one indivisible event (R98, D14) -/
  | dmaWord (half : BitVec 15) (v : Word)
  /-- DmaCollision: a DMA write that coincides with a CPU write (R100, R269) -/
  | dmaCollision
  /-- DmaAddrErr (R274) -/
  | dmaAddrErr
  /-- the USB module accesses byte `off` of its Buffer Descriptor Table (R273) -/
  | usbAccess (off : Fin 512)
  /-- a DO loop ends: DL is "automatically updated" (R65, R158); only while the CPU runs -/
  | doLoopEnd
  /-- Reset(External) of the Reset logic (R301, D21) -/
  | externalReset
  deriving DecidableEq, Repr

/-- Whose turn is next: the CPU's, with the events that occur during the instruction it runs, or an event's (R200, R231). The
first group of events comes before the instruction's own effects, and the group after it between its first data access and
its second, and so on: each data access of the CPU is an event of its own (R101, R279, D14). RETFIE and the entry sequence are
one indivisible step each (D1), so events that come during one come right after it. -/
inductive Turn where
  | cpu (during : List (List Event))
  | event (e : Event)
  deriving DecidableEq, Repr

/-- What an instruction outside the opcode table does that a rule speaks of: its data accesses (R9, R91 to R95, R162,
R166), its MAC-class operand fetches (R82, R163) and its accumulator overflows (R164, R266). DESIGN CHOICE: a MAC-class operand
fetch carries its Effective Address as a number and reads no pointer register, so the W15 checks of R94 are not made on it; how
such an address is formed is not in the source (N38; notes/assumptions/13.md). -/
inductive CpuAct where
  /-- MemRead, of a word when `wide` -/
  | read (src : Operand) (wide : Bool)
  /-- MemWrite, of a word when `wide`; a working register as `dst` is written itself -/
  | write (dst : Operand) (wide : Bool) (v : Word)
  /-- an operand fetch of a MAC-class instruction, a word access at `ea` -/
  | macFetch (space : DataSpace) (ea : Word)
  /-- AccOverflow(A or B) -/
  | accOverflow (acc : AccName)
  /-- AccCatastrophic(A or B) -/
  | accCatastrophic (acc : AccName)
  deriving DecidableEq, Repr

/-- What one program memory location holds: a 24-bit word, an instruction of the table that the spec takes as an abstract
event because it has no encoding (R110; notes/assumptions/3.md), or an instruction outside the table by what it does
(notes/assumptions/13.md). -/
inductive ProgItem where
  | word (w : PWord)
  | abstr (i : Instr)
  | outside (acts : List CpuAct)
  deriving DecidableEq, Repr

/-- The hidden state of a REPEAT loop (R156): how many further iterations remain, and whether the iteration under way is
the first. Whether a loop is active is SR.RA (R25). -/
structure RepeatState where
  left  : Nat
  first : Bool
  deriving DecidableEq, Repr

/-- The soft trap skid counters of R69 and R262. -/
structure Skid where
  stack       : Nat
  math        : Nat
  dmac        : Nat
  genericSoft : Nat
  deriving DecidableEq, Repr

/-- The old value of a mask register that the last completed instruction wrote (R231). For SR.IPL also the hard traps that
the old level kept from entry: those pending at the write and not above the CPU level before it. An event after the write is
none of them, so R263 stops execution for it whatever the boundary draws (notes/assumptions/17.md). -/
inductive MaskOld where
  | iec (x : Fin 16) (old : Word)
  | ipc (x : Fin 62) (old : Word)
  | ipl (old : Word) (held : List Trap)
  deriving DecidableEq, Repr

/-- What the boundary directly after an instruction may still see: the GIE bit before the instruction's first change of GIE
(R224; notes/assumptions/18.md), and each mask register the instruction wrote as it was before (R231). -/
structure Lag where
  gie   : Option Bool
  masks : List MaskOld
  deriving DecidableEq, Repr

/-- The state of the machine. -/
structure State where
  /-- the device parameters; no step changes them -/
  cfg : Config
  /-- W0 to W15 (R21) -/
  w : Vector Word 16
  /-- the Program Counter (R20) -/
  pc : PAddr
  splim : Word
  splimArmed : Bool
  sr : Word
  corcon : Word
  intcon1 : Word
  intcon2 : Word
  intcon3 : Word
  intcon4 : Word
  ifs : Vector Word 16
  iec : Vector Word 16
  ipc : Vector Word 62
  inttreg : Word
  /-- DISICNT, 14 bits (R58) -/
  disicnt : BitVec 14
  rcon : Word
  osccon : Word
  mstrpr : Word
  /-- the read and write page selections of paged addressing (R62) -/
  dsrPage : Word
  dswPage : Word
  /-- UxBDTP1 to UxBDTP3 (R63) -/
  bdtp1 : Word
  bdtp2 : Word
  bdtp3 : Word
  /-- accumulators A and B (R64) -/
  accA : AccWord
  accB : AccWord
  /-- the four entries of the DO stack (R65); what an entry holds is not in the source, so each is a free number -/
  doStack : Vector Nat 4
  /-- the REPEAT loop (R156) -/
  rpt : RepeatState
  /-- `gie_seen` (R67) -/
  gieSeen : Bool
  /-- old mask values for the next boundary (R224, R231) -/
  lag : Lag
  /-- `power_mode` (R68) -/
  power : PowerMode
  skid : Skid
  /-- data memory by byte address (R81), in the canonical form of `Memory.wf` -/
  mem : List Host.Cell
  /-- program memory by address (R80), strictly rising -/
  prog : List (Nat × ProgItem)
  /-- MODEL'S OWN: whose turns come next; when empty it is always the CPU's, with no event during it -/
  agenda : List Turn
  /-- MODEL'S OWN: while an instruction runs, the events to come between its data accesses; empty between steps -/
  meanwhile : List (List Event)
  /-- MODEL'S OWN: the value the last READ returned (R165) -/
  readOut : Word
  /-- MODEL'S OWN: how many free values the run has drawn -/
  draws : Nat
  deriving DecidableEq, Repr

/-- The state right after a Power-on Reset with nothing placed in any memory (R75). The values R75 states are its own; W0
to W14, SPLIM, RCON, OSCCON, MSTRPR, the pages, UxBDTPn, the accumulators, the DO stack, the repeat state, the device, the
agenda, meanwhile and the draw counter are the model's (notes/assumptions/1.md, 2.md, 6.md, 7.md). -/
def State.reset : State :=
  { cfg := Config.specDevice
    w := (Vector.replicate 16 0x0000#16).set 15 0x1000#16
    pc := 0x000000#24
    splim := 0x0000#16
    splimArmed := false
    sr := 0x0000#16
    corcon := 0x0020#16
    intcon1 := 0x0000#16
    intcon2 := 0x8000#16
    intcon3 := 0x0000#16
    intcon4 := 0x0000#16
    ifs := Vector.replicate 16 0x0000#16
    iec := Vector.replicate 16 0x0000#16
    ipc := Vector.replicate 62 0x4444#16
    inttreg := 0x0000#16
    disicnt := 0#14
    rcon := 0x0003#16
    osccon := 0x0000#16
    mstrpr := 0x0000#16
    dsrPage := 0x0001#16
    dswPage := 0x0001#16
    bdtp1 := 0x0000#16
    bdtp2 := 0x0000#16
    bdtp3 := 0x0000#16
    accA := 0#40
    accB := 0#40
    doStack := Vector.replicate 4 0
    rpt := { left := 0, first := false }
    gieSeen := true
    lag := { gie := none, masks := [] }
    power := .run
    skid := { stack := 0, math := 0, dmac := 0, genericSoft := 0 }
    mem := []
    prog := []
    agenda := []
    meanwhile := []
    readOut := 0x0000#16
    draws := 0 }

end Sys2Proof.Machine
end

