-- ==== Sys2Proof/Machine/Flags.lean ====
section
/-! DEFINITION. Status bits and fields of the registers: bit and field helpers, the CPU priority level (R27), the trap
status flags (R261), the interrupt flag, enable and priority of a source (R54), and which bits of each register software
may read, write or clear (R7). -/

namespace Sys2Proof.Machine

/-- A word with bit i set to b. -/
def setBit (v : Word) (i : Nat) (b : Bool) : Word :=
  if b then v ||| (1#16 <<< i) else v &&& ~~~(1#16 <<< i)

/-- `old` with the bits under the mask taken from `v`. -/
def mergeBits (old mask v : Word) : Word := (old &&& ~~~mask) ||| (v &&& mask)

/-- A register of a family by its index; an index past the family reads 0. -/
def regAt {k : Nat} (f : Vector Word k) (x : Nat) : Word := f[x]?.getD 0#16

/-! ### The CPU priority level -/

/-- SR.IPL<2:0> (R24). -/
def State.ipl (s : State) : Nat := (s.sr.extractLsb' 5 3).toNat

/-- CORCON.IPL3 (R28). -/
def State.ipl3 (s : State) : Bool := s.corcon.getLsbD 3

/-- `cpu_ipl`, the four bits CORCON.IPL3 : SR.IPL<2:0> (R27). -/
def State.cpuIpl (s : State) : Nat := (if s.ipl3 then 8 else 0) + s.ipl

/-- CORCON.SFA, bit 2 (R30). -/
def State.sfa (s : State) : Bool := s.corcon.getLsbD 2

/-- CORCON.VAR (R29). -/
def State.varLatency (s : State) : Bool := s.corcon.getLsbD 15

/-- CORCON.DL<2:0> (R65). -/
def State.doLevel (s : State) : Nat := (s.corcon.extractLsb' 8 3).toNat

/-- SRL, SR<7:0> (R25). -/
def State.srl (s : State) : Byte := s.sr.extractLsb' 0 8

/-- SR.RA, a REPEAT loop is active (R25). -/
def State.repeatActive (s : State) : Bool := s.sr.getLsbD 4

def State.setIpl (s : State) (l : Nat) : State := { s with sr := mergeBits s.sr 0x00E0#16 (BitVec.ofNat 16 (32 * l)) }

def State.setSrl (s : State) (v : Byte) : State := { s with sr := mergeBits s.sr 0x00FF#16 (v.zeroExtend 16) }

def State.setRepeatActive (s : State) (b : Bool) : State := { s with sr := setBit s.sr 4 b }

def State.setIpl3 (s : State) (b : Bool) : State := { s with corcon := setBit s.corcon 3 b }

def State.setSfa (s : State) (b : Bool) : State := { s with corcon := setBit s.corcon 2 b }

def State.setDoLevel (s : State) (l : Nat) : State :=
  { s with corcon := mergeBits s.corcon 0x0700#16 (BitVec.ofNat 16 (256 * l)) }

/-! ### INTCON1 and INTCON2 controls -/

/-- INTCON1.NSTDIS (R32). -/
def State.nstdis (s : State) : Bool := s.intcon1.getLsbD 15

/-- INTCON2.GIE (R42). -/
def State.gie (s : State) : Bool := s.intcon2.getLsbD 15

/-- INTCON2.DISI (R43, R132). -/
def State.disiBit (s : State) : Bool := s.intcon2.getLsbD 14

def State.setDisiBit (s : State) (b : Bool) : State := { s with intcon2 := setBit s.intcon2 14 b }

/-- INTCON2.INTkEP (R45): true selects the negative edge. -/
def State.negativeEdge (s : State) (k : Fin 5) : Bool := s.intcon2.getLsbD k.val

/-! ### Traps -/

/-- `TrapLevel(t)` (R203). -/
def State.trapLevel (s : State) : Trap → Nat
  | .oscillator => 14
  | .address => 13
  | .genericHard => 15
  | .stack => 12
  | .math => 11
  | .dmac => 10
  | .genericSoft => if s.cfg.genericSoftIs9 then 9 else 8

/-- `TrapVector(t)` (R202). -/
def State.trapVector (s : State) : Trap → Nat
  | .oscillator => s.cfg.trapVectors.oscillator.val
  | .address => s.cfg.trapVectors.address.val
  | .genericHard => s.cfg.trapVectors.genericHard.val
  | .stack => s.cfg.trapVectors.stack.val
  | .math => s.cfg.trapVectors.math.val
  | .dmac => s.cfg.trapVectors.dmac.val
  | .genericSoft => s.cfg.trapVectors.genericSoft.val

/-- `TrapPending(t)`, the status flag (R261). -/
def State.trapPending (s : State) : Trap → Bool
  | .oscillator => s.intcon1.getLsbD 1
  | .address => s.intcon1.getLsbD 3
  | .genericHard => s.intcon4.getLsbD 0
  | .stack => s.intcon1.getLsbD 2
  | .math => s.intcon1.getLsbD 4
  | .dmac => s.intcon1.getLsbD 5
  | .genericSoft => s.intcon3.extractLsb' 4 3 != 0#3

/-- The soft traps of R201; the other three are hard. -/
def trapIsSoft : Trap → Bool
  | .stack | .math | .dmac | .genericSoft => true
  | .oscillator | .address | .genericHard => false

/-- The trap sources in falling order of level (R203). -/
def trapsByLevel : List Trap := [.genericHard, .oscillator, .address, .stack, .math, .dmac, .genericSoft]

/-- The hard traps (R201). -/
def hardTraps : List Trap := [.oscillator, .address, .genericHard]

/-- The skid counter of a soft trap; a hard trap has none (R262). -/
def State.skidOf (s : State) : Trap → Nat
  | .stack => s.skid.stack
  | .math => s.skid.math
  | .dmac => s.skid.dmac
  | .genericSoft => s.skid.genericSoft
  | .oscillator | .address | .genericHard => 0

def State.setSkid (s : State) (t : Trap) (n : Nat) : State :=
  match t with
  | .stack => { s with skid := { s.skid with stack := n } }
  | .math => { s with skid := { s.skid with math := n } }
  | .dmac => { s with skid := { s.skid with dmac := n } }
  | .genericSoft => { s with skid := { s.skid with genericSoft := n } }
  | .oscillator | .address | .genericHard => s

/-! ### Interrupt sources -/

/-- `IF(n)`: bit n mod 16 of IFS(n div 16); an unimplemented source has none (R54, R50). -/
def State.irqFlag (s : State) (n : Nat) : Bool := s.cfg.irqImpl.getLsbD n && (regAt s.ifs (n / 16)).getLsbD (n % 16)

/-- `IE(n)`: bit n mod 16 of IEC(n div 16) (R54, R50). -/
def State.irqEnable (s : State) (n : Nat) : Bool := s.cfg.irqImpl.getLsbD n && (regAt s.iec (n / 16)).getLsbD (n % 16)

/-- `IP(n)`: bits 4(n mod 4)+2 down to 4(n mod 4) of IPC(n div 4) (R54, R50). -/
def State.irqPriority (s : State) (n : Nat) : Nat :=
  if s.cfg.irqImpl.getLsbD n then ((regAt s.ipc (n / 4)).extractLsb' (4 * (n % 4)) 3).toNat else 0

/-- Set the flag of an implemented source (R51); an unimplemented one has no flag to set. -/
def State.setIrqFlag (s : State) (n : Irq) : State :=
  if s.cfg.irqImpl.getLsbD n.val then
    { s with ifs := s.ifs.set (n.val / 16) (setBit (regAt s.ifs (n.val / 16)) (n.val % 16) true) (by omega) }
  else s

/-! ### Access types (R7) -/

/-- The bits of IFSx and IECx that belong to implemented sources. -/
def irqBits (c : Config) (x : Nat) : Word := (c.irqImpl.zeroExtend 256).extractLsb' (16 * x) 16

/-- The bits of one field of IPCx, when its source is implemented. -/
def ipcNibble (c : Config) (x k : Nat) : Word := if c.irqImpl.getLsbD (4 * x + k) then 7#16 <<< (4 * k) else 0#16

/-- The bits of IPCx that belong to implemented sources; bits 15, 11, 7 and 3 never do (R53). -/
def ipcBits (c : Config) (x : Nat) : Word := ipcNibble c x 0 ||| ipcNibble c x 1 ||| ipcNibble c x 2 ||| ipcNibble c x 3

/-- The implemented bits of a register; the others read 0 (R7, R23, R26, R31, R41, R46, R47, R50, R53, R55, R58). -/
def implementedBits (c : Config) : RegName → Word
  | .w _ | .splim | .sr | .rcon | .osccon | .mstrpr | .dsrPage | .dswPage | .bdtp1 | .bdtp2 | .bdtp3 => 0xFFFF#16
  | .corcon => 0xBFFF#16
  | .intcon1 => 0xFFFE#16
  | .intcon2 => 0xE01F#16
  | .intcon3 => 0x0070#16
  | .intcon4 => 0x0001#16
  | .ifs x => irqBits c x.val
  | .iec x => irqBits c x.val
  | .ipc x => ipcBits c x.val
  | .inttreg => 0x0FFF#16
  | .disicnt => 0x3FFF#16

/-- The R/W bits of SR: N, OV, Z and C always, IPL<2:0> unless nesting is disabled (R23, R24, R253). -/
def State.srWritable (s : State) : Word := if s.nstdis then 0x000F#16 else 0x00EF#16

/-- The R/C bits of SR: SA, SB, SAB (R23). -/
def srClearable : Word := 0x3400#16

/-- The R/W bits of CORCON (R26). -/
def corconWritable : Word := 0xB8F3#16

/-- The R/C bit of CORCON: IPL3 (R26, R28). -/
def corconClearable : Word := 0x0008#16

/-- A software write under a mask: R/W bits take the value, R/C bits can only be cleared, the rest keep (R7, R165). -/
def writeBits (old writable clearable mask v : Word) : Word :=
  mergeBits old (mask &&& writable) v &&& ~~~(clearable &&& mask &&& ~~~v)

/-! ### Accumulator saturation and status -/

/-- Whether the accumulator saturates at 31 bits: its enable SATA or SATB with ACCSAT = 0 (R64; notes/assumptions/12.md). -/
def State.saturates31 (s : State) (acc : AccName) : Bool :=
  !s.corcon.getLsbD 4 && match acc with | .a => s.corcon.getLsbD 7 | .b => s.corcon.getLsbD 6

/-- Whether the accumulator saturates in either mode (R64). -/
def State.saturates (s : State) (acc : AccName) : Bool :=
  match acc with | .a => s.corcon.getLsbD 7 | .b => s.corcon.getLsbD 6

/-- The status bits of SR that are not the interrupt controller's and not RA or DA: OA, OB, SA, SB, OAB, SAB, DC, N, OV,
Z, C (R23). -/
def statusFlagBits : Word := 0xFD0F#16

/-- The accumulator status bits of SR: OA, OB, SA, SB, OAB, SAB (R23, R25). -/
def accStatusBits : Word := 0xFC00#16

end Sys2Proof.Machine
end

