-- ==== Sys2Proof/Machine/Ops.lean ====
section
/-! DEFINITION. The operations every meaning shares: draws of free values, the Program Counter, the working registers, data
and program memory, raising a trap and the hard trap conflict (R261, R272), the device Reset (R300), the software access to
registers (R165, R7, R98), the access checks (R91 to R95), data writes, the events of the other agents (R200, R269, R273,
R274, R276, R283, R301), the stack (R97), taking an exception (`enterException`, R244), and the return from one (`popFrame`,
`restoreFrame`, R140). -/

namespace Sys2Proof.Machine

/-! ### Free values -/

/-- A free natural number; the counter moves on. -/
def State.draw (s : State) : Nat × State := (Config.freeNat s.draws, { s with draws := s.draws + 1 })

/-- A free choice between two. -/
def State.drawBool (s : State) : Bool × State := (s.draw.1 % 2 == 1, s.draw.2)

/-- A free word. -/
def State.drawWord (s : State) : Word × State := (BitVec.ofNat 16 s.draw.1, s.draw.2)

/-- A free element of {lo, ..., hi}; no draw where that is one value. -/
def State.drawBetween (s : State) (lo hi : Nat) : Nat × State :=
  if hi ≤ lo then (lo, s) else (lo + s.draw.1 % (hi - lo + 1), s.draw.2)

/-! ### The Program Counter -/

/-- Write `pc`; bit 0 and bit 23 carry no address (R20). -/
def State.setPc (s : State) (a : PAddr) : State := { s with pc := a &&& 0x7FFFFE#24 }

/-- The address `d` units from `pc`, and the state after the draw that stands for it where it leaves program space (N30). -/
def State.pcPlus (s : State) (d : Int) : PAddr × State :=
  if 0 ≤ (s.pc.toNat : Int) + d ∧ (s.pc.toNat : Int) + d < 0x800000 then
    (BitVec.ofNat 24 ((s.pc.toNat : Int) + d).toNat, s)
  else (BitVec.ofNat 24 s.draw.1, s.draw.2)

/-- Sequential execution: `pc` moves on by two address units per instruction word (R20). -/
def State.advance (s : State) (words : Nat) : State := (s.pcPlus (2 * words)).2.setPc (s.pcPlus (2 * words)).1

/-! ### Working registers -/

def State.reg (s : State) (i : Fin 16) : Word := s.w[i]

def State.setReg (s : State) (i : Fin 16) (v : Word) : State := { s with w := s.w.set i.val v i.isLt }

/-- The Stack Pointer, W15 (R21). -/
def State.sp (s : State) : Word := s.reg 15

/-- Leave a working register with a value no rule gives. -/
def State.setRegFree (s : State) (i : Fin 16) : State := s.drawWord.2.setReg i s.drawWord.1

/-- Leave the bits of SR under a mask with values no rule gives. -/
def State.setSrFree (s : State) (mask : Word) : State :=
  { s.drawWord.2 with sr := mergeBits s.sr mask s.drawWord.1 }

/-- The accumulator of a name (R64). -/
def State.acc (s : State) : AccName → AccWord
  | .a => s.accA
  | .b => s.accB

def State.setAcc (s : State) (n : AccName) (v : AccWord) : State :=
  match n with
  | .a => { s with accA := v }
  | .b => { s with accB := v }

/-! ### Reading a register -/

/-- The stored bits of a register. -/
def State.rawReg (s : State) : RegName → Word
  | .w i => s.reg i
  | .splim => s.splim
  | .sr => s.sr
  | .corcon => s.corcon
  | .intcon1 => s.intcon1
  | .intcon2 => s.intcon2
  | .intcon3 => s.intcon3
  | .intcon4 => s.intcon4
  | .ifs x => s.ifs[x]
  | .iec x => s.iec[x]
  | .ipc x => s.ipc[x]
  | .inttreg => s.inttreg
  | .disicnt => s.disicnt.zeroExtend 16
  | .rcon => s.rcon
  | .osccon => s.osccon
  | .mstrpr => s.mstrpr
  | .dsrPage => s.dsrPage
  | .dswPage => s.dswPage
  | .bdtp1 => s.bdtp1
  | .bdtp2 => s.bdtp2
  | .bdtp3 => s.bdtp3

/-- What software reads: the unimplemented bits read 0 (R7). A read has no side effect (R98). -/
def State.readReg (s : State) (r : RegName) : Word := s.rawReg r &&& implementedBits s.cfg r

/-! ### Memories: lists of address and content, addresses strictly rising -/

/-- What a list of cells holds at an address. -/
def cellGet {β : Type} : List (Nat × β) → Nat → Option β
  | [], _ => none
  | (k, v) :: rest, a => if k = a then some v else cellGet rest a

/-- Write one cell; rising addresses stay rising. -/
def cellSet {β : Type} : List (Nat × β) → Nat → β → List (Nat × β)
  | [], a, v => [(a, v)]
  | (k, u) :: rest, a, v =>
    if a < k then (a, v) :: (k, u) :: rest
    else if a = k then (a, v) :: rest
    else (k, u) :: cellSet rest a v

/-- Whether the addresses rise strictly. -/
def cellsRise {β : Type} : List (Nat × β) → Bool
  | [] => true
  | (k, _) :: rest => rest.all (fun c => decide (k < c.1)) && cellsRise rest

/-- The canonical form of data memory: addresses strictly rising and inside data space (R81). An unlisted address has no
value, so no listed cell can equal what an unlisted address reads as (notes/assumptions/8.md). -/
def Memory.wf (m : List Host.Cell) : Bool := cellsRise m && m.all (fun c => decide (c.1 < 0x10000))

/-- The canonical form of program memory. -/
def Program.wf (p : List (Nat × ProgItem)) : Bool := cellsRise p

/-- Whether an address lies in one of the ranges. -/
def inRanges (rs : List AddrRange) (a : Nat) : Bool := rs.any (fun r => decide (r.first ≤ a) && decide (a ≤ r.last))

/-- The register whose word a data address lies in (R81). -/
def State.registerAt (s : State) (a : Nat) : Option RegName := cellGet s.cfg.registers (a - a % 2)

/-- `DataImplemented(a)` (R90); the address of a register is implemented (R81). -/
def State.dataImplemented (s : State) (a : Nat) : Bool := inRanges s.cfg.dataRanges a || (s.registerAt a).isSome

/-- `DataImplemented(a)` for an X or Y space operand fetch of a MAC-class instruction (R82). -/
def State.dataImplementedIn (s : State) (space : DataSpace) (a : Nat) : Bool :=
  match space with
  | .x => s.dataImplemented a && !inRanges s.cfg.yRanges a
  | .y => s.dataImplemented a && inRanges s.cfg.yRanges a

/-- Whether an address lies in Auxiliary Flash (R86). -/
def State.inAux (s : State) (a : Nat) : Bool :=
  match s.cfg.aux with
  | some x => inRanges [x.range] a
  | none => false

/-- `ProgImplemented(a)` (R90); Auxiliary Flash is a second region of program space (R80). -/
def State.progImplemented (s : State) (a : Nat) : Bool := inRanges s.cfg.progRanges a || s.inAux a

/-- One byte of data memory; none where nothing has written it. -/
def State.readByte (s : State) (a : Nat) : Option Byte := cellGet s.mem a

def State.writeByte (s : State) (a : Nat) (v : Byte) : State := { s with mem := cellSet s.mem a v }

/-- The word of two bytes of data memory, the byte at the even address low (R89, D13); none where a byte is unwritten. -/
def State.memWord (s : State) (ea : Word) : Option Word :=
  match s.readByte ea.toNat, s.readByte (ea.toNat + 1) with
  | some lo, some hi => some (hi ++ lo)
  | _, _ => none

/-- A word read from data space: the register that lies there (R81), read without a side effect (R98), or data memory. -/
def State.readWord (s : State) (ea : Word) : Option Word :=
  match s.registerAt ea.toNat with
  | some r => some (s.readReg r)
  | none => s.memWord ea

/-- Whether a read of data space meets a byte that nothing has written (D16). -/
def State.unwritten (s : State) (ea : Word) (wide : Bool) : Bool :=
  (s.registerAt ea.toNat).isNone && (if wide then (s.memWord ea).isNone else (s.readByte ea.toNat).isNone)

/-- Write the two bytes of a word at an even address (R89, D13). -/
def State.writeWord (s : State) (ea : Word) (v : Word) : State :=
  (s.writeByte ea.toNat (v.extractLsb' 0 8)).writeByte (ea.toNat + 1) (v.extractLsb' 8 8)

/-! ### Raising a trap -/

/-- The details of a math error (R265). -/
inductive MathDetail where
  | ovA | ovB | covA | covB | sftac | div0
  deriving DecidableEq, Repr

/-- The details of a generic soft trap (R270). -/
inductive SoftDetail where
  | uae | dae | doovr
  deriving DecidableEq, Repr

/-- A trap event, `raise <Trap>(info)` of R9. -/
inductive Cause where
  | oscillator
  | address
  | genericHard
  | stack
  | math (d : MathDetail)
  | dmac
  | genericSoft (d : SoftDetail)
  deriving DecidableEq, Repr

/-- The bits of INTCON1 a math error sets: MATHERR and the detail flag (R265). -/
def mathBits : MathDetail → Word
  | .ovA => 0x4010#16
  | .ovB => 0x2010#16
  | .covA => 0x1010#16
  | .covB => 0x0810#16
  | .sftac => 0x0090#16
  | .div0 => 0x0050#16

/-- The bit of INTCON3 a generic soft trap sets (R46). -/
def softBits : SoftDetail → Word
  | .uae => 0x0040#16
  | .dae => 0x0020#16
  | .doovr => 0x0010#16

/-- The reset location (R87, R300). -/
def State.resetLocation (s : State) : PAddr :=
  match s.cfg.aux with
  | some x => x.resetAddr.getD 0#24
  | none => 0#24

/-- `Reset(cause)` (R300, R75, R304): every register at its reset value, memories unchanged; RCON.TRAPR set by a trap
conflict and otherwise unchanged, the rest of RCON a free value. -/
def State.deviceReset (s : State) (trapConflict : Bool) : State :=
  { State.reset with
    cfg := s.cfg
    pc := s.resetLocation &&& 0x7FFFFE#24
    rcon := mergeBits s.drawWord.1 0x8000#16 (if trapConflict then 0x8000#16 else s.rcon)
    mem := s.mem
    prog := s.prog
    agenda := s.agenda
    meanwhile := s.meanwhile
    draws := s.draws + 1 }

/-- What an operation leaves: the run goes on, a device Reset cut it short (R272), or the model stops. -/
inductive Flow where
  | go (s : State)
  | cut (s : State)
  | fault (f : Fault)
  | refused (r : Refusal)
  deriving DecidableEq, Repr

def Flow.bind (f : Flow) (k : State → Flow) : Flow :=
  match f with
  | .go s => k s
  | .cut s => .cut s
  | .fault f => .fault f
  | .refused r => .refused r

/-- The outcome of a step or an instruction that ends with the operation. -/
def Flow.outcome : Flow → Host.Outcome State Fault Refusal
  | .go s => .next s
  | .cut s => .next s
  | .fault f => .fault f
  | .refused r => .refused r

/-- The outcome of an instruction that goes on, after the operation, with the one that follows it. -/
def Flow.thenAdvance (f : Flow) : Host.Outcome State Fault Refusal := (f.bind fun s => .go (s.advance 1)).outcome

/-- The hard trap events that earlier data accesses of the same instruction, or an earlier push of the same entry, made, and
whether the draw orders the next one so that it and one of them are a conflict: the events of one instruction are ordered by
a draw, which admits both outcomes (R279, D12). -/
structure Earlier where
  traps : List Trap
  clash : Bool
  deriving DecidableEq, Repr

/-- No earlier event. -/
def Earlier.none : Earlier := { traps := [], clash := false }

/-- Hard trap conflict (R272) for the event of hard trap h: a pending trap of a higher level, a higher level in progress,
or, on a device that says so, the same level; a trap raised earlier in the same instruction counts as the draw says. -/
def State.hardConflict (s : State) (h : Trap) (earlier : Earlier := .none) : Bool :=
  trapsByLevel.any (fun t => !earlier.traps.contains t && s.trapPending t && decide (s.trapLevel h < s.trapLevel t))
    || decide (s.trapLevel h < s.cpuIpl)
    || (decide (s.cpuIpl = s.trapLevel h) && decide (s.cfg.sameLevel = .reset))
    || earlier.clash

/-- Set the status flag of a hard trap. -/
def State.setHardFlag (s : State) (h : Trap) : State :=
  match h with
  | .oscillator => { s with intcon1 := s.intcon1 ||| 0x0002#16 }
  | .address => { s with intcon1 := s.intcon1 ||| 0x0008#16 }
  | .genericHard => { s with intcon4 := s.intcon4 ||| 0x0001#16 }
  | .stack | .math | .dmac | .genericSoft => s

/-- The event of a hard trap: nothing when its flag is already 1; a Reset on a conflict; else its flag is set (R272). -/
def raiseHard (h : Trap) (s : State) (earlier : Earlier := .none) : Flow :=
  if s.trapPending h then .go s
  else if s.hardConflict h earlier then .cut (s.deviceReset true)
  else .go (s.setHardFlag h)

/-- `raise`: record a trap event (R9, R264 to R278). A soft trap event only sets its flags. -/
def raiseCause (c : Cause) (s : State) (earlier : Earlier := .none) : Flow :=
  match c with
  | .oscillator => raiseHard .oscillator s earlier
  | .address => raiseHard .address s earlier
  | .genericHard => raiseHard .genericHard s earlier
  | .stack => .go { s with intcon1 := s.intcon1 ||| 0x0004#16 }
  | .math d => .go { s with intcon1 := s.intcon1 ||| mathBits d }
  | .dmac => .go { s with intcon1 := s.intcon1 ||| 0x0020#16 }
  | .genericSoft d => .go { s with intcon3 := s.intcon3 ||| softBits d }

/-- Several trap events, one after the other (R279). -/
def raiseAll (cs : List Cause) (s : State) (earlier : Earlier := .none) : Flow :=
  match cs with
  | [] => .go s
  | c :: cs => (raiseCause c s earlier).bind fun s1 => raiseAll cs s1 earlier

/-- The hard trap events between two states of one instruction. -/
def State.hardSince (s t : State) : List Trap :=
  hardTraps.filter fun h => t.trapPending h && !s.trapPending h

/-- The draw that orders the next hard trap event of an instruction against its earlier ones; none without those. -/
def State.drawEarlier (s : State) (traps : List Trap) : Earlier × State :=
  match traps with
  | [] => (.none, s)
  | _ :: _ => ({ traps := traps, clash := s.drawBool.1 }, s.drawBool.2)

/-- The math error of an accumulator overflow, when its enable OVATE or OVBTE is set (R266). -/
def State.overflowCauses (s : State) : AccName → List Cause
  | .a => if s.intcon1.getLsbD 10 then [.math .ovA] else []
  | .b => if s.intcon1.getLsbD 9 then [.math .ovB] else []

/-- The math error of a catastrophic overflow, when COVTE is set (R266). -/
def State.catastrophicCauses (s : State) : AccName → List Cause
  | .a => if s.intcon1.getLsbD 8 then [.math .covA] else []
  | .b => if s.intcon1.getLsbD 8 then [.math .covB] else []

/-! ### Writing a register -/

/-- The hard trap events of a write to INTCON1 that takes OSCFAIL or ADDRERR from 0 to 1 (R261, D10), in a free order when
both do (R279). -/
def State.intcon1Events (s : State) (new : Word) : List Cause × State :=
  let osc := new.getLsbD 1 && !s.intcon1.getLsbD 1
  let addr := new.getLsbD 3 && !s.intcon1.getLsbD 3
  if osc && addr then
    if s.drawBool.1 then ([.oscillator, .address], s.drawBool.2) else ([.address, .oscillator], s.drawBool.2)
  else if osc then ([.oscillator], s)
  else if addr then ([.address], s)
  else ([], s)

/-- A write to INTCON1: the bits are stored, a hard trap flag that goes from 0 to 1 is a trap event (R31, R48, R261). DESIGN
CHOICE: a flag that the same write clears no longer counts as pending for the conflict of R272, so a write that clears OSCFAIL
and sets ADDRERR makes none by it, which no rule says (notes/assumptions/20.md). -/
def State.writeIntcon1 (s : State) (mask v : Word) (earlier : Earlier := .none) : Flow :=
  let new := writeBits s.intcon1 0xFFFE#16 0#16 mask v
  let events := s.intcon1Events new
  let kept := new &&& ~~~((new &&& ~~~s.intcon1) &&& 0x000A#16)
  raiseAll events.1 { events.2 with intcon1 := kept } earlier

/-- A write to INTCON2: GIE with its lag (R224), SWTRAP, whose write of 1 sets SGHT (R44, R278), the edge polarities; the
DISI bit keeps (R43, U6). DESIGN CHOICE: where one instruction changes GIE twice, the old GIE is the bit before the first
change, which no rule says (notes/assumptions/18.md). -/
def State.writeIntcon2 (s : State) (mask v : Word) (earlier : Earlier := .none) : Flow :=
  let new := writeBits s.intcon2 0xA01F#16 0#16 mask v
  let lagged := if new.getLsbD 15 = s.gie then s.lag.gie else some (s.lag.gie.getD s.gie)
  let s1 := { s with intcon2 := new, lag := { s.lag with gie := lagged } }
  if mask.getLsbD 13 && v.getLsbD 13 then raiseAll [.genericHard] s1 earlier else .go s1

/-- A write to INTCON4: SGHT from 0 to 1 is a trap event (R47, R278). -/
def State.writeIntcon4 (s : State) (mask v : Word) (earlier : Earlier := .none) : Flow :=
  let new := writeBits s.intcon4 0x0001#16 0#16 mask v
  if new.getLsbD 0 && !s.intcon4.getLsbD 0 then raiseAll [.genericHard] { s with intcon4 := new &&& ~~~0x0001#16 } earlier
  else .go { s with intcon4 := new }

/-- A write to DISICNT (R133): while the DISI bit is 1 it sets the count, and 0 closes the window; while it is 0 the count
is a free value and nothing is disabled (U5). -/
def State.writeDisicnt (s : State) (mask v : Word) : State :=
  let new : BitVec 14 := (mergeBits (s.disicnt.zeroExtend 16) mask v).extractLsb' 0 14
  if s.disiBit then { s with disicnt := new }.setDisiBit (new != 0#14)
  else { s.drawWord.2 with disicnt := s.drawWord.1.extractLsb' 0 14 }

/-- The old value of a mask register joins those the boundary after the instruction may still see (R231). DESIGN CHOICE: where
one instruction writes the same register more than once, the boundary may see each value it held since before the first, which
no rule says (notes/assumptions/17.md). -/
def State.rememberMask (s : State) (old : MaskOld) : State := { s with lag := { s.lag with masks := old :: s.lag.masks } }

/-- The hard traps that the CPU level keeps from entry: pending, and not above it (R230). -/
def State.hardHeld (s : State) : List Trap :=
  hardTraps.filter fun h => s.trapPending h && decide (s.trapLevel h ≤ s.cpuIpl)

/-- Write the bits of a register that the mask covers, each with its access type (R7) and the effects of R98, in one
indivisible event (R165, D14). DESIGN CHOICE: a write of one byte of SPLIM arms the stack limit check like a write of the
word; the source speaks of a word and leaves the byte open (R22, R70, N21; notes/assumptions/53.md). -/
def State.writeReg (s : State) (r : RegName) (mask v : Word) (earlier : Earlier := .none) : Flow :=
  match r with
  | .w i => .go (s.setReg i (mergeBits (s.reg i) mask v))
  | .splim => .go { s with splim := mergeBits s.splim mask v, splimArmed := true }
  | .sr =>
    let s1 := { s with sr := writeBits s.sr s.srWritable srClearable mask v }
    .go (if mask &&& s.srWritable &&& 0x00E0#16 = 0#16 then s1 else s1.rememberMask (.ipl s.sr s.hardHeld))
  | .corcon => .go { s with corcon := writeBits s.corcon corconWritable corconClearable mask v }
  | .intcon1 => s.writeIntcon1 mask v earlier
  | .intcon2 =>
    if mask.getLsbD 14 && v.getLsbD 14 != s.disiBit then .refused .writeOfDisiBit else s.writeIntcon2 mask v earlier
  | .intcon3 => .go { s with intcon3 := writeBits s.intcon3 0x0070#16 0#16 mask v }
  | .intcon4 => s.writeIntcon4 mask v earlier
  | .ifs x => .go { s with ifs := s.ifs.set x.val (writeBits s.ifs[x] (irqBits s.cfg x.val) 0#16 mask v) }
  | .iec x =>
    .go ({ s with iec := s.iec.set x.val (writeBits s.iec[x] (irqBits s.cfg x.val) 0#16 mask v) }.rememberMask
      (.iec x s.iec[x]))
  | .ipc x =>
    .go ({ s with ipc := s.ipc.set x.val (writeBits s.ipc[x] (ipcBits s.cfg x.val) 0#16 mask v) }.rememberMask
      (.ipc x s.ipc[x]))
  | .inttreg => .go s
  | .disicnt => .go (s.writeDisicnt mask v)
  | .rcon => .go { s with rcon := mergeBits s.rcon mask v }
  | .osccon => .go { s with osccon := mergeBits s.osccon mask v }
  | .mstrpr => .go { s with mstrpr := mergeBits s.mstrpr mask v }
  | .dsrPage => .go { s with dsrPage := mergeBits s.dsrPage mask v }
  | .dswPage => .go { s with dswPage := mergeBits s.dswPage mask v }
  | .bdtp1 => .go { s with bdtp1 := mergeBits s.bdtp1 mask v }
  | .bdtp2 => .go { s with bdtp2 := mergeBits s.bdtp2 mask v }
  | .bdtp3 => .go { s with bdtp3 := mergeBits s.bdtp3 mask v }

/-! ### The access checks -/

/-- The stack pointer checks of R94 on an EA generated through W15. -/
def State.stackCauses (s : State) (ea : Word) (wraps : Bool) : List Cause :=
  if ea.toNat < 0x1000 || (s.splimArmed && decide (s.splim.toNat < ea.toNat)) || wraps then [.stack] else []

/-- Alignment and implementation of a data read (R91, R92). -/
def State.readCauses (s : State) (ea : Word) (wide : Bool) : List Cause :=
  if (wide && ea.getLsbD 0) || !s.dataImplemented ea.toNat then [.address] else []

/-- Alignment and implementation of a data write (R91, R92, D26). -/
def State.writeCauses (s : State) (ea : Word) (wide : Bool) : List Cause :=
  if wide && ea.getLsbD 0 then [.address]
  else if !s.dataImplemented ea.toNat && s.cfg.writeUnimplTraps then [.address]
  else []

/-! ### Data writes -/

/-- A data write to memory without its checks: one to unimplemented data space changes no memory (R92). -/
def State.store (s : State) (ea : Word) (wide : Bool) (v : Word) : State :=
  if s.dataImplemented ea.toNat then
    if wide then s.writeWord ea v else s.writeByte ea.toNat (v.extractLsb' 0 8)
  else s

/-- A hard trap whose flag is cleared is no longer one that the old level kept from entry. -/
def MaskOld.dropCleared (s : State) : MaskOld → MaskOld
  | .iec x old => .iec x old
  | .ipc x old => .ipc x old
  | .ipl old held => .ipl old (held.filter s.trapPending)

/-- What the state keeps of a trap whose flag is cleared goes: `skid(t)` returns to 0 (R262), and the next event of a hard
trap is a new one (R263). -/
def State.dropCleared (s : State) : State :=
  { s with
    skid :=
      { stack := if s.trapPending .stack then s.skid.stack else 0
        math := if s.trapPending .math then s.skid.math else 0
        dmac := if s.trapPending .dmac then s.skid.dmac else 0
        genericSoft := if s.trapPending .genericSoft then s.skid.genericSoft else 0 }
    lag := { s.lag with masks := s.lag.masks.map (MaskOld.dropCleared s) } }

/-- The bits of a register that a data write at its address covers: all, or the byte at an even or an odd address (R89). -/
def byteMask (ea : Word) (wide : Bool) : Word := if wide then 0xFFFF#16 else if ea.getLsbD 0 then 0xFF00#16 else 0x00FF#16

/-- A data write at the address of a register: a software write of it (R81, R98), the bits aligned to the byte written. -/
def State.writeRegAt (s : State) (r : RegName) (ea : Word) (wide : Bool) (v : Word) (earlier : Earlier := .none) : Flow :=
  s.writeReg r (byteMask ea wide) (if !wide && ea.getLsbD 0 then v <<< 8 else v) earlier

/-- A data write without its checks: to the register that lies there, or to memory. -/
def State.dataWrite (s : State) (ea : Word) (wide : Bool) (v : Word) (earlier : Earlier := .none) : Flow :=
  match s.registerAt ea.toNat with
  | some r => (s.writeRegAt r ea wide v earlier).bind fun s1 => .go s1.dropCleared
  | none => .go (s.store ea wide v)

/-! ### Events of the other agents -/

/-- `ExtEdge(k, direction)` (R283): the flag is set when the edge has the polarity INTkEP selects (R45). -/
def State.extEdge (s : State) (k : Fin 5) (dir : Edge) : State :=
  match dir with
  | .rising => if s.negativeEdge k then s else s.setIrqFlag s.cfg.intIrq[k]
  | .falling => if s.negativeEdge k then s.setIrqFlag s.cfg.intIrq[k] else s

/-- A DMA write (R100, R274). It is no instruction, so no boundary sees an old GIE or mask value for its sake (R224, R231;
notes/assumptions/45.md). -/
def State.dmaStore (s : State) (ea : Word) (wide : Bool) (v : Word) : Flow :=
  if !s.cfg.hasDma then .go s
  else if s.dataImplemented ea.toNat then
    match s.registerAt ea.toNat with
    | some r => (s.writeRegAt r ea wide v).bind fun s1 => .go { s1 with lag := s.lag }.dropCleared
    | none => .go (s.store ea wide v)
  else raiseCause (.genericSoft .dae) s

/-- A DO loop ends: one level fewer, and no loop active when none is left (R65, R25). DESIGN CHOICE: the four entries of the
DO stack stay as they are; the source gives neither what they hold nor what the end of a loop does to them
(notes/assumptions/10.md). -/
def State.endLoop (s : State) : State :=
  if s.doLevel = 0 then s
  else if s.doLevel = 1 then { s with sr := setBit s.sr 9 false }.setDoLevel 0
  else s.setDoLevel (s.doLevel - 1)

/-- The effect of an event (R200). An event of a unit the device does not have never occurs, so it changes nothing, and so
does the end of a DO loop while the CPU sleeps (R68). -/
def Event.apply (e : Event) (s : State) : Flow :=
  match e with
  | .irq n => .go (s.setIrqFlag n)
  | .extEdge k dir => .go (s.extEdge k dir)
  | .oscFail => raiseCause .oscillator { s with osccon := setBit s.osccon 3 true }
  | .dmaByte ea v => s.dmaStore ea false (v.zeroExtend 16)
  | .dmaWord half v => s.dmaStore (half ++ 0#1) true v
  | .dmaCollision => if s.cfg.hasDma then raiseCause .dmac s else .go s
  | .dmaAddrErr => if s.cfg.hasDma then raiseCause (.genericSoft .dae) s else .go s
  | .usbAccess off =>
    if !s.cfg.hasUsb || s.dataImplemented ((Config.bdtAddress s.bdtp1 s.bdtp2 s.bdtp3).toNat + off.val) then .go s
    else raiseCause (.genericSoft .uae) s
  | .doLoopEnd => if s.power = .run then .go s.endLoop else .go s
  | .externalReset => .cut (s.deviceReset false)

/-- A group of events that occur during an instruction, in their order (R200, R279). A Reset among them ends the instruction,
and those after it come next. -/
def happen : List Event → State → Flow
  | [], s => .go s
  | e :: es, s =>
    match e.apply s with
    | .go s1 => happen es s1
    | .cut s1 => .cut { s1 with meanwhile := es :: s1.meanwhile }
    | .fault f => .fault f
    | .refused r => .refused r

/-- The next group of events, between two data accesses of the running instruction (R101, R300, D14). -/
def State.meet (s : State) : Flow :=
  match s.meanwhile with
  | [] => .go s
  | es :: rest => happen es { s with meanwhile := rest }

/-! ### The stack -/

/-- The trap events of a push at W15 (R97, R94, R91, R92). Whether a post-increment past 0xFFFF counts as the wrap of R94 (c)
is the device's (spec/95_test_vectors.md 2.10 row 12; notes/assumptions/23.md). -/
def State.pushCauses (s : State) : List Cause :=
  s.stackCauses s.sp (decide (0x10000 ≤ s.sp.toNat + 2) && s.cfg.pushWraps) ++ s.writeCauses s.sp true

/-- `Push16` (R97): its trap events, the write at W15, which an address error inhibits, and then W15 moves on. `inhibited`
says that an address error of the same entry inhibits it as well (R95). -/
def State.push (s : State) (v : Word) (inhibited : Bool) (earlier : List Trap) : Flow :=
  let e := s.drawEarlier earlier
  (raiseAll s.pushCauses e.2 e.1).bind fun s1 =>
    (if inhibited || s.pushCauses.contains .address then Flow.go s1 else s1.dataWrite s.sp true v e.1).bind fun s2 =>
      .go (s2.setReg 15 (s2.sp + 2#16))

/-- One pop: the value if it can be known, the trap events, and the state with W15 moved back (R97). -/
structure Popped where
  value  : Option Word
  causes : List Cause
  st     : State

/-- `Pop16` (R97, R94, R91, R92). A read that raises the address error returns a free value (U13). Whether a pre-decrement
below 0 counts as the wrap of R94 (c) is the device's (notes/assumptions/23.md). DESIGN CHOICE: the value is the one before
the pop's own trap events, so a pop at the address of INTCON1 does not see the STKERR it raises, which no rule says
(notes/assumptions/33.md). -/
def State.pop (s : State) : Popped :=
  let ea := s.sp - 2#16
  let s1 := s.setReg 15 ea
  let stackErr := s.stackCauses ea (decide (s.sp.toNat < 2) && s.cfg.belowZeroWraps)
  match s.readCauses ea true with
  | [] => { value := s1.readWord ea, causes := stackErr, st := s1 }
  | addr => { value := some s1.drawWord.1, causes := stackErr ++ addr, st := s1.drawWord.2 }

/-! ### The exception frame (R96) -/

/-- Word A: pc[15:1] : SFA. -/
def frameA (ret : PAddr) (sfa : Bool) : Word := ret.extractLsb' 1 15 ++ BitVec.ofBool sfa

/-- Word B: SRL : IPL3 : pc[22:16]. -/
def frameB (srl : Byte) (ipl3 : Bool) (ret : PAddr) : Word := srl ++ BitVec.ofBool ipl3 ++ ret.extractLsb' 16 7

/-- The return address in a frame: B[6:0] : A[15:1] : 0, zero-extended (R140). -/
def framePc (b a : Word) : PAddr := 0#1 ++ b.extractLsb' 0 7 ++ a.extractLsb' 1 15 ++ 0#1

/-- The two pops of a return, word B first, each with its trap events, and what comes `between` them; then `k` goes on with
the two words. A word that nothing has written is a fault (R75, D16), after the trap events of both pops
(notes/assumptions/8.md). -/
def State.popFrame (s : State) (between : State → Flow) (k : Word → Word → State → Flow) : Flow :=
  (raiseAll s.pop.causes s.pop.st).bind fun s1 => (between s1).bind fun s2 =>
    (raiseAll s2.pop.causes s2.pop.st).bind fun s3 =>
      match s.pop.value, s2.pop.value with
      | some b, some a => k b a s3
      | _, _ => .fault .readOfUnwrittenMemory

/-- What RETFIE restores from the words of a frame (R140). -/
def State.restoreFrame (s : State) (b a : Word) : State :=
  (((s.setSrl (b.extractLsb' 8 8)).setIpl3 (b.getLsbD 7)).setSfa (a.getLsbD 0)).setPc (framePc b a)

/-! ### The DISI countdown -/

/-- DISICNT drops by the cycles of an instruction or an entry while the DISI bit is 1 (R134). -/
def State.countdown (s : State) (lo hi : Nat) : State :=
  if s.disiBit then
    let c := (s.drawBetween (max 1 lo) hi).1
    let s1 := (s.drawBetween (max 1 lo) hi).2
    if s1.disicnt.toNat ≤ c then { s1 with disicnt := 0#14 }.setDisiBit false
    else { s1 with disicnt := BitVec.ofNat 14 (s1.disicnt.toNat - c) }
  else s

/-! ### Taking an exception -/

/-- Who is entered: `Trap(t)` or `Irq(n)` (R230). -/
inductive Source where
  | trap (t : Trap)
  | irq (n : Nat)
  deriving DecidableEq, Repr

/-- The vector number (R202, R205). -/
def State.vectorNumber (s : State) : Source → Nat
  | .trap t => s.trapVector t
  | .irq n => n + 8

/-- `VecAddr(v)` (R85). -/
def vecAddr (v : Nat) : Nat := 0x000004 + 2 * v

/-- The program address the entry sequence reads its vector from (R244, R86, R248). -/
def State.vectorAddr (s : State) (src : Source) : Nat :=
  match s.cfg.aux with
  | some x => if s.inAux s.pc.toNat then x.vectorAddr.toNat else vecAddr (s.vectorNumber src)
  | none => vecAddr (s.vectorNumber src)

/-- The new CPU level (R243, R252). -/
def State.setLevel (s : State) (src : Source) (level : Nat) : State :=
  match src with
  | .trap _ => (s.setIpl3 true).setIpl (level - 8)
  | .irq _ => (s.setIpl3 false).setIpl (if s.nstdis then 7 else level)

/-- INTTREG is latched (R245): VECNUM is a free value for a trap (U2), ILR a free choice of the two levels for an
interrupt with NSTDIS = 1 (U3). -/
def State.latch (s : State) (src : Source) (level : Nat) : State :=
  match src with
  | .trap _ =>
    { s.draw.2 with inttreg := BitVec.ofNat 16 (256 * level + s.draw.1 % 256) }
  | .irq n =>
    if s.nstdis && level != 7 then
      { s.drawBool.2 with inttreg := BitVec.ofNat 16 (256 * (if s.drawBool.1 then 7 else level) + n) }
    else { s with inttreg := BitVec.ofNat 16 (256 * level + n) }

/-- What the source does not say of the state inside a service routine (R247, U9, U10): SFA, RA, DA, DL, the REPEAT and
the DO state take free values. -/
def State.loseLoopState (s : State) : State :=
  { s with
    corcon := mergeBits (setBit s.corcon 2 (Config.freeNat s.draws % 2 == 1)) 0x0700#16
      (BitVec.ofNat 16 (256 * (Config.freeNat (s.draws + 1) % 5)))
    sr := mergeBits s.sr 0x0210#16 (BitVec.ofNat 16 (Config.freeNat (s.draws + 2)))
    rpt := { left := Config.freeNat (s.draws + 3), first := Config.freeNat (s.draws + 4) % 2 == 1 }
    doStack := #v[Config.freeNat (s.draws + 5), Config.freeNat (s.draws + 6), Config.freeNat (s.draws + 7),
                  Config.freeNat (s.draws + 8)]
    draws := s.draws + 9 }

/-- The skid counter of an entered trap returns to 0 (R262). -/
def State.clearSkidOf (s : State) (src : Source) : State :=
  match src with
  | .trap t => s.setSkid t 0
  | .irq _ => s

/-- The old mask values no longer count (R224, R231). -/
def State.clearLag (s : State) : State := { s with lag := { gie := none, masks := [] } }

/-- Whether one of the two slots above W15 raises the address error, which then inhibits both writes of the entry (R95;
notes/assumptions/25.md). -/
def State.pushInhibited (s : State) : Bool :=
  (s.pushCauses ++ (s.setReg 15 (s.sp + 2#16)).pushCauses).contains .address

/-- The two pushes of the entry sequence, one after the other, word A first (R244, R97). -/
def State.pushFrame (s : State) (a b : Word) : Flow :=
  (s.push a s.pushInhibited []).bind fun s1 => s1.push b s.pushInhibited (s.hardSince s1)

/-- MSTRPR<2:0> = 000: the CPU is the highest priority bus master (R61). -/
def State.highestMaster (s : State) : Bool := s.mstrpr &&& 0x0007#16 == 0#16

/-- The least number of cycles of the entry sequence (R333, R334, R335). DESIGN CHOICE: with MSTRPR<2:0> other than 000,
for which R333 says no figure (N36), any number from 1 on (notes/assumptions/29.md). -/
def State.entryMin (s : State) : Nat := if s.highestMaster then (if s.varLatency then 9 else 13) else 1

/-- The greatest number of cycles of the entry sequence; where none is given, one that no 14-bit count outlasts. -/
def State.entryMax (s : State) : Nat := if s.highestMaster then 14 else 0x4000

/-- What the entry sequence does after its pushes and before it loads `pc`: the new level, the INTTREG latch, the state no
rule gives, and the skid counter (R243, R245, R247, R262). -/
def State.enterLevel (s : State) (src : Source) (level : Nat) : State :=
  ((((s.setLevel src level).latch src level).loseLoopState).clearSkidOf src).clearLag

/-- What the entry sequence does after its pushes (R244): the level, INTTREG, the state no rule gives, `pc` from the vector,
the countdown. A vector slot that was never programmed (U12), and one that holds no even address below 0x800000 (U4), is
refused. DESIGN CHOICE: the countdown takes VAR and MSTRPR as they were before the pushes, even when a push writes CORCON or
MSTRPR at its data address; no rule gives the moment (R333; notes/assumptions/29.md). -/
def State.loadVector (s pushed : State) (src : Source) (level : Nat) : Flow :=
  match cellGet s.prog (s.vectorAddr src) with
  | some (.word v) =>
    if v.getLsbD 0 || v.getLsbD 23 then .refused .vectorNotAnAddress
    else .go (((pushed.enterLevel src level).setPc v).countdown s.entryMin s.entryMax)
  | some (.abstr _) | some (.outside _) | none => .refused .unprogrammedVector

/-- `Enter(src)` at a boundary, with `level` the level arbitration gave the source (R244). A stack or address error of the
pushes is raised like any other; a hard trap conflict it makes is a Reset (R272). -/
def enterException (src : Source) (level : Nat) (s : State) : Host.Outcome State Fault Refusal :=
  ((s.pushFrame (frameA s.pc s.sfa) (frameB s.srl s.ipl3 s.pc)).bind fun s1 => s.loadVector s1 src level).outcome

end Sys2Proof.Machine
end

