-- ==== Sys2Proof/Machine/Operands.lean ====
section
/-! DEFINITION. The operand forms of instructions that access data (R91 to R94, R162, R166): the Effective Address of each,
its checks, and a read and a write through it. -/

namespace Sys2Proof.Machine

/-! ### Data operands -/

/-- Where the EA of an operand lies, exactly, before it is cut to 16 bits; `extra` is the distance of a second fetch. -/
def State.operandSum (s : State) (o : Operand) (extra : Nat) : Int :=
  match o with
  | .reg _ => 0
  | .indirect i disp => (s.reg i).toNat + disp + extra
  | .direct ea => ea.toNat + extra
  | .paged ea => ea.toNat + extra

/-- The Effective Address of an operand (R81). -/
def State.operandEa (s : State) (o : Operand) (extra : Nat) : Word := BitVec.ofInt 16 (s.operandSum o extra)

/-- Whether the computation of an EA through W15 wraps over the end of data space (R94 (c)): it passes 0xFFFF, or it falls
below 0 on a device where that counts (notes/assumptions/23.md). -/
def State.operandWraps (s : State) (o : Operand) (extra : Nat) : Bool :=
  decide (0x10000 ≤ s.operandSum o extra) || (decide (s.operandSum o extra < 0) && s.cfg.belowZeroWraps)

/-- The stack pointer checks on an operand: made when W15 is its pointer (R94, R166). -/
def State.pointerCauses (s : State) (o : Operand) (extra : Nat) : List Cause :=
  match o with
  | .indirect i _ => if i = 15 then s.stackCauses (s.operandEa o extra) (s.operandWraps o extra) else []
  | .reg _ | .direct _ | .paged _ => []

/-- The trap events of a data read through an operand: the stack pointer checks, alignment and implementation, and page 0
of paged addressing (R91 to R94). -/
def State.operandReadCauses (s : State) (o : Operand) (extra : Nat) (wide : Bool) : List Cause :=
  match o with
  | .reg _ => []
  | .indirect _ _ | .direct _ => s.pointerCauses o extra ++ s.readCauses (s.operandEa o extra) wide
  | .paged _ => if (wide && (s.operandEa o extra).getLsbD 0) || s.dsrPage == 0#16 then [.address] else []

/-- The trap events of a data write through an operand (R91 to R94). -/
def State.operandWriteCauses (s : State) (o : Operand) (wide : Bool) : List Cause :=
  match o with
  | .reg _ => []
  | .indirect _ _ | .direct _ => s.pointerCauses o 0 ++ s.writeCauses (s.operandEa o 0) wide
  | .paged _ => if (wide && (s.operandEa o 0).getLsbD 0) || s.dswPage == 0#16 then [.address] else []

/-- Whether a read through an operand meets a byte of data memory that nothing has written (D16), when the instruction began
in `start`, which gives the address and the checks. One that raises the address error, or goes through a page, returns a free
value (U13, R83), and one of a working register reads no memory. -/
def State.meetsUnwritten (s start : State) (o : Operand) (extra : Nat) (wide : Bool) : Bool :=
  match o with
  | .reg _ | .paged _ => false
  | .indirect _ _ | .direct _ =>
    !(start.operandReadCauses o extra wide).contains .address && s.unwritten (start.operandEa o extra) wide

/-- The same for a read at the start of the instruction. -/
def State.operandUnwritten (s : State) (o : Operand) (extra : Nat) (wide : Bool) : Bool := s.meetsUnwritten s o extra wide

/-- A word read through an operand. -/
structure Fetched where
  value  : Option Word
  causes : List Cause
  st     : State

/-- Read a word through an operand. The value is free when the read raises the address error (U13) and for paged
addressing, whose mapping is not in the source (R83); it is unknown where nothing has written the bytes. DESIGN CHOICE: it is
the value before the read's own trap events, so a read through W15 at the address of INTCON1 does not see the STKERR it
raises, which no rule says (notes/assumptions/33.md). -/
def State.fetchOperand (s : State) (o : Operand) : Fetched :=
  let causes := s.operandReadCauses o 0 true
  match o with
  | .reg i => { value := some (s.reg i), causes := causes, st := s }
  | .paged _ => { value := some s.drawWord.1, causes := causes, st := s.drawWord.2 }
  | .indirect _ _ | .direct _ =>
    if causes.contains .address then { value := some s.drawWord.1, causes := causes, st := s.drawWord.2 }
    else { value := s.readWord (s.operandEa o 0), causes := causes, st := s }

/-- Write through an operand whose Effective Address is `ea`, without the checks. A paged write reaches no address of data
memory (notes/assumptions/16.md). DESIGN CHOICE: a byte written to a working register goes to its low byte, which no rule
says (notes/assumptions/4.md). -/
def State.storeOperand (s : State) (o : Operand) (ea : Word) (wide : Bool) (v : Word) (earlier : Earlier := .none) : Flow :=
  match o with
  | .reg i => .go (s.setReg i (mergeBits (s.reg i) (byteMask 0#16 wide) v))
  | .paged _ => .go s
  | .indirect _ _ | .direct _ => s.dataWrite ea wide v earlier

end Sys2Proof.Machine
end

