-- ==== Sys2Proof/Machine/Outside.lean ====
section
/-! DEFINITION. What an instruction outside the opcode table does (spec/20_memory.md R82, R91 to R95, R101;
spec/41_referenced_instructions.md R162 to R164, R166; spec/60_exceptions.md R279). -/

namespace Sys2Proof.Machine

/-- An instruction outside the table changes an accumulator: its value and the accumulator status bits are free (R164). -/
def State.accChanged (s : State) (acc : AccName) : State :=
  (s.draw.2.setAcc acc (BitVec.ofNat 40 s.draw.1)).setSrFree accStatusBits

/-- AccOverflow occurs: the device has accumulators and 31-bit saturation is off (R64, R164). -/
def State.canOverflow (s : State) (acc : AccName) : Bool := s.cfg.hasDsp && !s.saturates31 acc

/-- AccCatastrophic occurs: the device has accumulators and saturation is off (R64, R164). -/
def State.canOverflowCatastrophically (s : State) (acc : AccName) : Bool := s.cfg.hasDsp && !s.saturates acc

/-- The trap events of one act. DESIGN CHOICE: a MAC-class operand fetch is a word access, which no rule says, so an odd
address raises the address error (R82, R91, R163; notes/assumptions/13.md). -/
def CpuAct.causes (s : State) : CpuAct → List Cause
  | .read src wide => s.operandReadCauses src 0 wide
  | .write dst wide _ => s.operandWriteCauses dst wide
  | .macFetch space ea => if ea.getLsbD 0 || !s.dataImplementedIn space ea.toNat then [.address] else []
  | .accOverflow acc => if s.canOverflow acc then s.overflowCauses acc else []
  | .accCatastrophic acc => if s.canOverflowCatastrophically acc then s.catastrophicCauses acc else []

/-- Whether the act, of an instruction that began in `start`, reads a byte of data memory that nothing has written (D16). -/
def CpuAct.readsUnwritten (start s : State) : CpuAct → Bool
  | .read src wide => s.meetsUnwritten start src 0 wide
  | .macFetch space ea => !ea.getLsbD 0 && start.dataImplementedIn space ea.toNat && s.unwritten ea true
  | .write _ _ _ | .accOverflow _ | .accCatastrophic _ => false

/-- The effect of one act, after its trap events; `inhibited` says that the instruction raises the address error, so that none
of its data space writes is performed (R95). DESIGN CHOICE: an overflow that saturation rules out leaves the accumulator and
its status bits free like any other (R64, R164; notes/assumptions/13.md). -/
def CpuAct.effect (start : State) (inhibited : Bool) (earlier : Earlier) (act : CpuAct) (s : State) : Flow :=
  match act with
  | .read _ _ | .macFetch _ _ => .go s
  | .write (.reg i) wide v => s.storeOperand (.reg i) 0#16 wide v
  | .write dst wide v => if inhibited then .go s else s.storeOperand dst (start.operandEa dst 0) wide v earlier
  | .accOverflow acc | .accCatastrophic acc => .go (if s.cfg.hasDsp then s.accChanged acc else s)

/-- One act: its trap events, then its effect. -/
def CpuAct.run (start : State) (inhibited : Bool) (earlier : List Trap) (act : CpuAct) (s : State) : Flow :=
  let e := s.drawEarlier earlier
  (raiseAll (act.causes start) e.2 e.1).bind (act.effect start inhibited e.1)

/-- The acts of one instruction in their order, other agents' events between them (R101); their addresses and checks are those
at its start. `earlier` are the hard trap events so far, and `missed` says that a read met a byte nothing has written, which
is a fault after all trap events (D16; notes/assumptions/8.md). -/
def runActs (start : State) (inhibited : Bool) (earlier : List Trap) (missed : Bool) : List CpuAct → State → Flow
  | [], s => if missed then .fault .readOfUnwrittenMemory else .go s
  | act :: acts, s =>
    (act.run start inhibited earlier s).bind fun s1 =>
      (if acts.isEmpty then Flow.go s1 else s1.meet).bind
        (runActs start inhibited (earlier ++ s.hardSince s1) (missed || act.readsUnwritten start s) acts)

/-- Whether an instruction outside the table raises the address error, which inhibits its data space writes (R95). DESIGN
CHOICE: only an access check inhibits; a data write of its own that takes ADDRERR from 0 to 1 (R261) raises the trap and
inhibits none of its writes, which no rule says (notes/assumptions/52.md). -/
def State.actsInhibited (s : State) (acts : List CpuAct) : Bool := (acts.flatMap (CpuAct.causes s)).contains .address

/-- An instruction outside the table, by what it does: its acts, and the next instruction. -/
def execOutside (acts : List CpuAct) (s : State) : Host.Outcome State Fault Refusal :=
  (runActs s (s.actsInhibited acts) [] false acts s).thenAdvance

end Sys2Proof.Machine
end

