-- ==== Sys2Proof/Machine/Boundary.lean ====
section
/-! DEFINITION. What happens at an instruction boundary: arbitration (R220 to R234), the GIE delay and the mask write lag
(R224, R231), the soft trap skid (R262), wake-up (R280), the choice of the next action, the instruction fetch (R106, R116),
and what completes around an instruction (R134, R156, R262). -/

namespace Sys2Proof.Machine

/-! ### Masking and arbitration -/

/-- Source n requests: implemented, flag set, enable set (R220). -/
def State.requests (s : State) (n : Nat) : Bool := s.irqFlag n && s.irqEnable n

/-- `eff_ipl` (R221). -/
def State.effIpl (s : State) : Nat := if 8 ≤ s.cpuIpl ∨ s.gieSeen then s.cpuIpl else 7

/-- DISI masks levels 1 to 6 (R223). -/
def State.disiMasked (s : State) (n : Nat) : Bool :=
  s.disiBit && decide (1 ≤ s.irqPriority n) && decide (s.irqPriority n ≤ 6)

/-- Source n requests, passes the level mask and is not DISI-masked: the set Q of R230. -/
def State.candidate (s : State) (n : Nat) : Bool :=
  s.requests n && decide (s.effIpl < s.irqPriority n) && !s.disiMasked n

/-- The candidate of greatest priority among the first k sources, the least number on a tie (R230, R232). -/
def State.bestIrq (s : State) : Nat → Option Nat
  | 0 => none
  | k + 1 =>
    match s.bestIrq k with
    | none => if s.candidate k then some k else none
    | some m => if s.candidate k && decide (s.irqPriority m < s.irqPriority k) then some k else some m

/-- The pending trap of greatest level above the CPU level: step (1) of R230. -/
def State.bestTrap (s : State) : Option Trap :=
  trapsByLevel.find? (fun t => s.trapPending t && decide (s.cpuIpl < s.trapLevel t))

/-- `Arb` (R230): the source, and the level it has. -/
def State.arbitrate (s : State) : Option (Source × Nat) :=
  match s.bestTrap with
  | some t => some (.trap t, s.trapLevel t)
  | none =>
    match s.bestIrq 246 with
    | some n => some (.irq n, s.irqPriority n)
    | none => none

/-! ### What the boundary sees -/

/-- `gie_seen` at a boundary (R224). -/
def State.sampleGie (s : State) : State :=
  match s.lag.gie with
  | none => { s with gieSeen := s.gie }
  | some old => { s.drawBool.2 with gieSeen := if s.drawBool.1 then old else s.gie }

/-- The state with a mask register the last instruction wrote put back to its old value. -/
def State.withOldMask (s : State) (m : MaskOld) : State :=
  match m with
  | .iec x old => { s with iec := s.iec.set x.val old }
  | .ipc x old => { s with ipc := s.ipc.set x.val old }
  | .ipl old _ => { s with sr := mergeBits s.sr 0x00E0#16 old }

/-- The state with each of the old mask values put back or not, as the draw at its place says. -/
def State.withSomeOldMasks (s : State) : List MaskOld → Nat → State
  | [], _ => s
  | m :: ms, k => (if Config.freeNat k % 2 == 1 then s.withOldMask m else s).withSomeOldMasks ms (k + 1)

/-- The state arbitration reads, and the state after the draws: with MASK_WRITE_LAG the boundary after a write of a mask
register sees its old or its new value (R231). -/
def State.maskView (s : State) : State × State :=
  if s.cfg.maskWriteLag then
    (s.withSomeOldMasks s.lag.masks s.draws, { s with draws := s.draws + s.lag.masks.length })
  else (s, s)

/-! ### Wake-up -/

/-- An enabled flag of level 1 or more (R280, R281). -/
def State.wakesBelow (s : State) : Nat → Bool
  | 0 => false
  | k + 1 => (s.requests k && decide (1 ≤ s.irqPriority k)) || s.wakesBelow k

/-- `Wake` is enabled (R280, D20). -/
def State.wakes (s : State) : Bool := s.wakesBelow 246 || s.bestTrap.isSome

/-- `Wake` (R280): the CPU runs; DISICNT is a free value from 0 to the value held, and 0 closes the window (U7). -/
def State.wake (s : State) : State :=
  let c := s.drawBetween 0 s.disicnt.toNat
  let s1 := { c.2 with power := .run, disicnt := BitVec.ofNat 14 c.1 }
  if c.1 = 0 then s1.setDisiBit false else s1

/-! ### The next action -/

/-- What a step does. -/
inductive Action where
  /-- the event of another agent -/
  | event (e : Event)
  /-- the CPU sleeps on -/
  | asleep
  | wake
  | enter (src : Source) (level : Nat)
  /-- fetch and run the instruction at `pc`, with the events that occur during it, in groups -/
  | run (during : List (List Event))
  deriving DecidableEq, Repr

/-- The soft trap skid (R262): `Enter`, or, while the trap's count is below SOFT_TRAP_SKID_MAX = 2, possibly the next
instruction. DESIGN CHOICE: the count is of boundaries passed, so one whose fetch then finds `pc` unimplemented and executes
nothing counts as well, which no rule says (notes/assumptions/19.md). -/
def State.enterOrSkid (s : State) (t : Trap) (level : Nat) : Action × State :=
  if trapIsSoft t && decide (s.skidOf t < 2) then
    if s.drawBool.1 then (.run [], s.drawBool.2.setSkid t (s.skidOf t + 1)) else (.enter (.trap t) level, s.drawBool.2)
  else (.enter (.trap t) level, s)

/-- The old level that the last instruction replaced kept hard trap h from entry, so its event is older (R231, R263). -/
def State.heldByOldIpl (s : State) (h : Trap) : Bool :=
  s.lag.masks.any fun
    | .ipl _ held => held.contains h
    | .iec _ _ | .ipc _ _ => false

/-- The hard trap of greatest level for which execution stops (R263): pending above the CPU level, and not held by an old
level. -/
def State.stoppingTrap (s : State) : Option Trap :=
  trapsByLevel.find? fun t =>
    !trapIsSoft t && s.trapPending t && decide (s.cpuIpl < s.trapLevel t) && !s.heldByOldIpl t

/-- What the boundary decides: arbitration reads the masks the boundary sees (R231), but a hard trap that stops execution is
not missed, whatever an old IPL<2:0> says (R263). -/
def State.boundaryWinner (s view : State) : Option (Source × Nat) :=
  match s.stoppingTrap with
  | none => view.arbitrate
  | some h =>
    match view.bestTrap with
    | some t => if s.trapLevel h < s.trapLevel t then some (.trap t, s.trapLevel t) else some (.trap h, s.trapLevel h)
    | none => some (.trap h, s.trapLevel h)

/-- The action at a boundary while `power_mode` is Run (R231). -/
def State.atBoundary (s : State) : Action × State :=
  let seen := s.sampleGie
  match seen.boundaryWinner seen.maskView.1 with
  | none => (.run [], seen.maskView.2)
  | some (.trap t, level) => seen.maskView.2.enterOrSkid t level
  | some (.irq n, level) => (.enter (.irq n) level, seen.maskView.2)

/-- The action of the CPU's turn: nothing but `Wake` while it sleeps (R68, R151). -/
def State.cpuTurn (s : State) : Action × State :=
  match s.power with
  | .run => s.atBoundary
  | .sleep => if s.wakes then (.wake, s) else (.asleep, s)
  | .idle => if s.wakes then (.wake, s) else (.asleep, s)

/-- Events that were to occur during an instruction: they do when one runs, else they come next. -/
def meetEvents (during : List (List Event)) (turn : Action × State) : Action × State :=
  match turn.1 with
  | .run more => (.run (more ++ during), turn.2)
  | .event _ | .asleep | .wake | .enter _ _ => (turn.1, { turn.2 with agenda := during.flatten.map .event ++ turn.2.agenda })

/-- The next action and the state it acts on: the agenda says whose turn it is. -/
def State.nextAction (s : State) : Action × State :=
  match s.agenda with
  | [] => s.cpuTurn
  | .cpu during :: rest => meetEvents during (s.cpuTurn.1, { s.cpuTurn.2 with agenda := rest })
  | .event e :: rest => (.event e, { s with agenda := rest })

/-! ### The fetch -/

/-- The program words from an address on, at most two: as many as an instruction can have (R111). DESIGN CHOICE: whether
the address of a second word is implemented is not asked, as R106 speaks of `pc` alone; where no word stands there a GOTO
is no instruction (notes/assumptions/15.md). -/
def State.wordsAt (s : State) (a : Nat) : List PWord :=
  match cellGet s.prog a, cellGet s.prog (a + 2) with
  | some (.word w1), some (.word w2) => [w1, w2]
  | some (.word w1), _ => [w1]
  | _, _ => []

/-- What the fetch finds at `pc`. -/
inductive Fetch where
  | unimplemented
  | refused (r : Refusal)
  /-- an instruction of the table -/
  | instr (i : Instr)
  /-- an instruction outside the table, by what it does -/
  | outside (acts : List CpuAct)
  deriving DecidableEq, Repr

/-- The fetch (R106, R110, R116). -/
def State.fetch (s : State) : Fetch :=
  if s.progImplemented s.pc.toNat then
    match cellGet s.prog s.pc.toNat with
    | none => .refused .unprogrammedSlot
    | some (.word _) =>
      match decode (s.wordsAt s.pc.toNat) with
      | .ok i _ => .instr i
      | .reject _ => .refused .illegalInstruction
    | some (.abstr i) => if i.wellFormed && !i.encoded then .instr i else .refused .illFormedSlot
    | some (.outside acts) => .outside acts
  else .unimplemented

/-- A fetch at unimplemented program memory raises the address error and executes nothing, `pc` unchanged (R106). When its
flag is already 1 and the CPU level keeps the trap from being entered, the machine is stuck (U14). -/
def State.badFetch (s : State) : Host.Outcome State Fault Refusal :=
  if s.trapPending .address then
    if s.trapLevel .address ≤ s.cpuIpl then .fault .stuckAtUnimplementedPc else .next s
  else (raiseCause .address s).outcome

/-! ### What completes around an instruction -/

/-- The instructions a REPEAT loop iterates: those after which execution is sequential (notes/assumptions/11.md). -/
def instrIterates : Instr → Bool
  | .nop | .disi _ | .div _ | .sftac _ _ | .movD _ _ | .tblrd _ | .read _ | .write _ _ | .writeField _ _ => true
  | .goto _ | .ret | .retfie | .bra _ | .reset | .pwrsav _ | .rept | .doLoop | .btsc _ _ | .btss _ _ => false

/-- In a REPEAT loop an instruction that iterates runs again from its own address while iterations are left; after the last,
the loop is over (R156). -/
def State.iterate (s : State) (iterates : Bool) (at_ : PAddr) : State :=
  if iterates && s.repeatActive then
    if s.rpt.left = 0 then { s with rpt := { left := 0, first := false } }.setRepeatActive false
    else { s with rpt := { left := s.rpt.left - 1, first := false }, pc := at_ }
  else s

/-- The least of CyclesOf: RETFIE takes 3, NOP 1, the others what the device says (R335, R142, R155). -/
def State.cyclesMin (s : State) : Instr → Nat
  | .retfie => 3
  | .nop => 1
  | _ => s.cfg.minCycles

/-- The greatest of CyclesOf. -/
def State.cyclesMax (s : State) : Instr → Nat
  | .retfie => 3
  | .nop => 1
  | _ => s.cfg.maxCycles

/-- Every instruction but DISI itself counts the DISI window down (R134, R131). -/
def State.countInstr (s : State) (i : Instr) : State :=
  match i with
  | .disi _ => s
  | _ => s.countdown (s.cyclesMin i) (s.cyclesMax i)

/-- Events that found no data access of the instruction to come before come next. -/
def State.settle (s : State) : State :=
  { s with agenda := s.meanwhile.flatten.map .event ++ s.agenda, meanwhile := [] }

/-- What the step adds around exec: the REPEAT loop, the DISI countdown, the skid counters. -/
def State.retire (s : State) (i : Instr) (at_ : PAddr) : State :=
  ((s.iterate (instrIterates i) at_).countInstr i).dropCleared

/-- The same around an instruction outside the table, which counts its cycles like any other (R10, R134). -/
def State.retireOutside (s : State) (at_ : PAddr) : State :=
  ((s.iterate true at_).countdown s.cfg.minCycles s.cfg.maxCycles).dropCleared

end Sys2Proof.Machine
end

