-- ==== Sys2Proof/Machine/ControlFlow.lean ====
section
/-! DEFINITION. NOP, GOTO, BRA, RETURN, RESET and PWRSAV (spec/41_referenced_instructions.md R150 to R155). -/

namespace Sys2Proof.Machine

/-- A jump whose target is unimplemented (R152): the address error is raised, and `pc` is a free choice of the target and
the address after the instruction (U15). -/
def State.badJump (s : State) (target : PAddr) (words : Nat) : Host.Outcome State Fault Refusal :=
  ((raiseCause .address s).bind fun s1 =>
    .go (if s1.drawBool.1 then s1.drawBool.2.setPc target else s1.drawBool.2.advance words)).outcome

/-- Jump to a literal target (R152, R153). -/
def State.jump (s : State) (target : PAddr) (words : Nat) : Host.Outcome State Fault Refusal :=
  if s.progImplemented target.toNat then .next (s.setPc target) else s.badJump target words

/-- NOP (R155): `pc <- pc + 2`. -/
def execNop (s : State) : Host.Outcome State Fault Refusal := .next (s.advance 1)

/-- GOTO (R152). -/
def execGoto (target : PAddr) (s : State) : Host.Outcome State Fault Refusal := s.jump target 2

/-- BRA (R153, R112): target = pc + 2 + 2n for the signed word offset n. -/
def execBra (offset : Word) (s : State) : Host.Outcome State Fault Refusal :=
  (s.pcPlus (2 + 2 * offset.toInt)).2.jump (s.pcPlus (2 + 2 * offset.toInt)).1 1

/-- RETURN (R154): pops the two words, other agents' events between the two accesses (R101, D14), and loads `pc`; SR and IPL3
are not written; SFA is a free value (U9). -/
def execReturn (s : State) : Host.Outcome State Fault Refusal :=
  (s.popFrame State.meet fun b a s1 => .go ((s1.drawBool.2.setSfa s1.drawBool.1).setPc (framePc b a))).outcome

/-- RESET (R150): `Reset(software)`. -/
def execReset (s : State) : Host.Outcome State Fault Refusal := .next (s.deviceReset false)

/-- PWRSAV (R151): `power_mode` is Sleep or Idle, `pc <- pc + 2`. -/
def execPwrsav (m : LowPower) (s : State) : Host.Outcome State Fault Refusal :=
  .next ({ s with power := match m with | .sleep => .sleep | .idle => .idle }.advance 1)

end Sys2Proof.Machine
end

