-- ==== Sys2Proof/Machine/DataAccess.lean ====
section
/-! DEFINITION. MOV.D, TBLRDx, BTSC and BTSS (spec/41_referenced_instructions.md R159 to R162). The source gives them "no
rule about values": what they load is free. -/

namespace Sys2Proof.Machine

/-- MOV.D (R159): two word fetches, the second two bytes on, each with the access checks, other agents' events between them
(R101); the register pair it loads takes free values, and a fetch of a byte that nothing has written is a fault (R75, D16),
after the trap events of both (notes/assumptions/8.md). DESIGN CHOICE: the address and the checks of both fetches are those at
the start of the instruction, even when an event between them writes the pointer register, SPLIM or the read page, which no
rule says (notes/assumptions/34.md). -/
def execMovD (src : Operand) (dst : Fin 16) (s : State) : Host.Outcome State Fault Refusal :=
  ((raiseAll (s.operandReadCauses src 0 true) s).bind fun s1 => s1.meet.bind fun s2 =>
    (raiseAll (s.operandReadCauses src 2 true) s2).bind fun s3 =>
      if s.operandUnwritten src 0 true || s2.meetsUnwritten s src 2 true then .fault .readOfUnwrittenMemory
      else .go ((s3.setRegFree dst).setRegFree (dst + 1))).thenAdvance

/-- TBLRDx (R160): a read of program memory into a working register; the value is free. -/
def execTblrd (dst : Fin 16) (s : State) : Host.Outcome State Fault Refusal :=
  (Flow.go (s.setRegFree dst)).thenAdvance

/-- How many words the instruction two address units after `pc` has. DESIGN CHOICE: a word that is no instruction of R112, and
a location that nothing was programmed into, count as one; the source says that a few instructions have two words and names
GOTO alone (R111; notes/assumptions/36.md). -/
def State.wordsAfter (s : State) : Nat :=
  match cellGet s.prog (s.pc.toNat + 2) with
  | some (.word w) => wordCount w
  | some (.abstr _) | some (.outside _) | none => 1

/-- Test a bit of an operand and skip the next instruction when it has the value the device skips on (R161). -/
def State.testAndSkip (s : State) (src : Operand) (bit : Fin 16) (skipsOn : Bool) : Host.Outcome State Fault Refusal :=
  let f := s.fetchOperand src
  ((raiseAll f.causes f.st).bind fun s1 =>
    match f.value with
    | none => .fault .readOfUnwrittenMemory
    | some v => .go (if v.getLsbD bit.val == skipsOn then s1.advance (1 + s1.wordsAfter) else s1.advance 1)).outcome

/-- BTSC (R161). -/
def execBtsc (src : Operand) (bit : Fin 16) (s : State) : Host.Outcome State Fault Refusal :=
  s.testAndSkip src bit s.cfg.btscSkipsOn

/-- BTSS (R161). -/
def execBtss (src : Operand) (bit : Fin 16) (s : State) : Host.Outcome State Fault Refusal :=
  s.testAndSkip src bit s.cfg.btssSkipsOn

end Sys2Proof.Machine
end

