-- ==== Sys2Proof/Machine/InterruptControl.lean ====
section
/-! DEFINITION. DISI and RETFIE (spec/40_interrupt_instructions.md R130, R140). -/

namespace Sys2Proof.Machine

/-- DISI (R130): `DISICNT <- k; INTCON2.DISI <- (k != 0); pc <- pc + 2`. -/
def execDisi (k : BitVec 14) (s : State) : Host.Outcome State Fault Refusal :=
  .next (({ s with disicnt := k }.setDisiBit (k != 0#14)).advance 1)

/-- RETFIE (R140): pops word B and word A and restores SRL, IPL3, SFA and `pc` from them, in one indivisible step (D1). -/
def execRetfie (s : State) : Host.Outcome State Fault Refusal :=
  (s.popFrame .go fun b a s1 => .go (s1.restoreFrame b a)).outcome

end Sys2Proof.Machine
end

