-- ==== Sys2Proof/Machine/MathAndLoops.lean ====
section
/-! DEFINITION. REPEAT, the divide instructions, SFTAC and DO (spec/41_referenced_instructions.md R156 to R158). -/

namespace Sys2Proof.Machine

/-- REPEAT (R156): a loop of the next instruction begins; how often it iterates is not in the source and is free. -/
def execRepeat (s : State) : Host.Outcome State Fault Refusal :=
  .next (({ s.draw.2 with rpt := { left := s.draw.1, first := true } }.setRepeatActive true).advance 1)

/-- Whether a divide instruction makes the divide-by-zero check: in the first iteration of its loop (R156). One executed
without a loop is its own first iteration (notes/assumptions/11.md). -/
def State.firstIteration (s : State) : Bool := !s.repeatActive || s.rpt.first

/-- A divide instruction (R156, R267): `if divisor = 0 then raise MathError(DIV0ERR)` in the first iteration. What its
quotient and remainder registers hold is not in the source and is free. -/
def execDiv (divisor : Fin 16) (s : State) : Host.Outcome State Fault Refusal :=
  let causes := if s.firstIteration && s.reg divisor == 0#16 then [Cause.math .div0] else []
  let f := raiseAll causes s
  (f.bind fun s1 => .go ((s1.setRegFree s1.cfg.quotientReg).setRegFree s1.cfg.remainderReg)).thenAdvance

/-- The shift amount as a signed integer (R157). -/
def State.shiftAmount (s : State) : ShiftAmount → Int
  | .lit k => k.toInt
  | .reg i => (s.reg i).toInt

/-- Whether a shift moves bits up: the direction of a positive amount is the device's (R157: not in the source). -/
def shiftsLeft (c : Config) (amount : Int) : Bool := decide (0 < amount) != c.sftacPositiveRight

/-- The shifted accumulator, bits 39 to 0; whether a right shift keeps the sign is the device's (R157: not in the source). -/
def shiftAcc (c : Config) (v : AccWord) (amount : Int) : AccWord :=
  if shiftsLeft c amount then v <<< amount.natAbs
  else if c.sftacKeepsSign then v.sshiftRight amount.natAbs
  else v >>> amount.natAbs

/-- Whether a left shift by n has bits to carry out of bit k, under any reading of a carry-out: one of bits 39 to k - n
is 1. -/
def mayCarryOut (v : AccWord) (n k : Nat) : Bool := n != 0 && v >>> (k - n) != 0#40

/-- Whether a left shift by n gives a value that the bits up to k do not hold as a signed number: bits 39 to k - n are
not all the same. -/
def leavesRange (v : AccWord) (n k : Nat) : Bool := v.sshiftRight (k - n) != 0#40 && v.sshiftRight (k - n) != ~~~0#40

/-- The highest bit of the accumulator's number format: 31 while 31-bit saturation is enabled, else 39 (R64). -/
def State.topBit (s : State) (acc : AccName) : Nat := if s.saturates31 acc then 31 else 39

/-- The math errors of a legal shift. DESIGN CHOICE: whether a left shift that may carry a bit out of bit 31 or bit 39 is
an AccOverflow or AccCatastrophic event is free, as the source does not say; saturation rules it out (R64, R164, R266;
notes/assumptions/37.md). -/
def State.shiftCauses (s : State) (acc : AccName) (amount : Int) : List Cause :=
  let n := amount.natAbs
  if shiftsLeft s.cfg amount then
    (if mayCarryOut (s.acc acc) n 31 && !s.saturates31 acc && Config.freeNat s.draws % 2 == 1
      then s.overflowCauses acc else [])
    ++ (if mayCarryOut (s.acc acc) n 39 && !s.saturates acc && Config.freeNat (s.draws + 1) % 2 == 1
      then s.catastrophicCauses acc else [])
  else []

/-- Whether the accumulator's number format does not hold the shifted value: a left shift moves a bit of it out, or
31-bit saturation is enabled and a right shift leaves more than bit 31 holds (R64). -/
def State.shiftLeavesFormat (s : State) (acc : AccName) (amount : Int) : Bool :=
  amount != 0 &&
    if shiftsLeft s.cfg amount then leavesRange (s.acc acc) amount.natAbs (s.topBit acc)
    else leavesRange (shiftAcc s.cfg (s.acc acc) amount) 0 (s.topBit acc)

/-- What a legal shift writes. DESIGN CHOICE: one whose value the accumulator's number format does not hold writes a free
value, as the source does not say what is left of it (notes/assumptions/37.md). -/
def State.shiftResult (s : State) (acc : AccName) (amount : Int) : AccWord :=
  if s.shiftLeavesFormat acc amount then BitVec.ofNat 40 (Config.freeNat (s.draws + 2))
  else shiftAcc s.cfg (s.acc acc) amount

/-- SFTAC (R157, R268): a shift by more than 16 either way raises the math error trap and writes no accumulator; a legal
one writes the shifted value, may overflow, and leaves the status flags free. -/
def execSftac (acc : AccName) (amount : ShiftAmount) (s : State) : Host.Outcome State Fault Refusal :=
  let n := s.shiftAmount amount
  if !s.cfg.hasDsp then .refused .noAccumulators
  else if n < -16 ∨ 16 < n then (raiseCause (.math .sftac) s).thenAdvance
  else
    ((raiseAll (s.shiftCauses acc n) { s with draws := s.draws + 3 }).bind fun s1 =>
      .go ((s1.setAcc acc (s.shiftResult acc n)).setSrFree statusFlagBits)).thenAdvance

/-- Start a DO loop at a level below 4: the entry of the DO stack, DL and DA (R158, R65, R25). DEDUCED: the entry is the one
DL addresses before it counts up, the first for a loop that is not nested (notes/assumptions/10.md). -/
def State.startLoop (s : State) : State :=
  let s1 := { s.draw.2 with doStack := s.doStack.setIfInBounds s.doLevel s.draw.1, sr := setBit s.sr 9 true }
  s1.setDoLevel (s.doLevel + 1)

/-- DO (R158, R275): with four loops under way it raises the generic soft trap and changes no DO state, and where it
continues is free; else the loop starts. -/
def execDo (s : State) : Host.Outcome State Fault Refusal :=
  if 4 ≤ s.doLevel then
    ((raiseCause (.genericSoft .doovr) s).bind fun s1 => .go (s1.draw.2.setPc (BitVec.ofNat 24 s1.draw.1))).outcome
  else .next (s.startLoop.advance 1)

end Sys2Proof.Machine
end

