-- ==== Sys2Proof/Machine/RegisterAccess.lean ====
section
/-! DEFINITION. The abstract register accesses READ, WRITE and WRITEFIELD (spec/41_referenced_instructions.md R165). -/

namespace Sys2Proof.Machine

/-- READ (R165): the value of the register. -/
def execRead (r : RegName) (s : State) : Host.Outcome State Fault Refusal :=
  (Flow.go { s with readOut := s.readReg r }).thenAdvance

/-- WRITE (R165): all 16 bits. -/
def execWrite (r : RegName) (v : Word) (s : State) : Host.Outcome State Fault Refusal :=
  (s.writeReg r 0xFFFF#16 v).thenAdvance

/-- WRITEFIELD (R165): one named field, every other bit of the register as it was. -/
def execWriteField (f : FieldName) (v : Word) (s : State) : Host.Outcome State Fault Refusal :=
  (s.writeReg f.reg f.mask (v <<< f.low)).thenAdvance

end Sys2Proof.Machine
end

