-- ==== Sys2Proof/Machine/Dispatch.lean ====
section
/-! DEFINITION. The meaning of every instruction: one arm per constructor of Instr. -/

namespace Sys2Proof.Machine

def exec (i : Instr) (s : State) : Host.Outcome State Fault Refusal :=
  match i with
  | .nop => Sys2Proof.Machine.execNop s
  | .goto target => Sys2Proof.Machine.execGoto target s
  | .ret => Sys2Proof.Machine.execReturn s
  | .retfie => Sys2Proof.Machine.execRetfie s
  | .bra offset => Sys2Proof.Machine.execBra offset s
  | .disi k => Sys2Proof.Machine.execDisi k s
  | .reset => Sys2Proof.Machine.execReset s
  | .pwrsav m => Sys2Proof.Machine.execPwrsav m s
  | .rept => Sys2Proof.Machine.execRepeat s
  | .div divisor => Sys2Proof.Machine.execDiv divisor s
  | .sftac acc amount => Sys2Proof.Machine.execSftac acc amount s
  | .doLoop => Sys2Proof.Machine.execDo s
  | .movD src dst => Sys2Proof.Machine.execMovD src dst s
  | .tblrd dst => Sys2Proof.Machine.execTblrd dst s
  | .btsc src bit => Sys2Proof.Machine.execBtsc src bit s
  | .btss src bit => Sys2Proof.Machine.execBtss src bit s
  | .read r => Sys2Proof.Machine.execRead r s
  | .write r v => Sys2Proof.Machine.execWrite r v s
  | .writeField f v => Sys2Proof.Machine.execWriteField f v s

end Sys2Proof.Machine
end

