-- ==== Sys2Proof/Machine/Step.lean ====
section
/-! DEFINITION. One step of the machine, and where an instruction word is placed so that the next step runs it. -/

namespace Sys2Proof.Machine

/-- Retire an instruction that leads to a next state. -/
def retired (o : Host.Outcome State Fault Refusal) (f : State → State) : Host.Outcome State Fault Refusal :=
  match o with
  | .next s => .next (f s)
  | .fault f => .fault f
  | .refused r => .refused r

/-- Run what the fetch found at `pc`: exec gives the effect of an instruction, then it retires. -/
def runFetched (fetched : Fetch) (s : State) : Host.Outcome State Fault Refusal :=
  match fetched with
  | .unimplemented => s.badFetch
  | .refused r => .refused r
  | .instr i => retired (exec i s) (·.retire i s.pc)
  | .outside acts => retired (execOutside acts s) (·.retireOutside s.pc)

/-- An instruction begins: the old mask values are dropped, the events that occur during it are laid out, and the first group
of them happens (R200, R231, R279). -/
def State.begin (s : State) (during : List (List Event)) : Flow := { s.clearLag with meanwhile := during }.meet

/-- Fetch and run the instruction at `pc`, after the first of the events that occur during it. -/
def runNext (during : List (List Event)) (s : State) : Host.Outcome State Fault Refusal :=
  match s.begin during with
  | .go s1 => retired (runFetched s.fetch s1) State.settle
  | .cut s1 => .next s1.settle
  | .fault f => .fault f
  | .refused r => .refused r

/-- Do an action. -/
def perform (a : Action) (s : State) : Host.Outcome State Fault Refusal :=
  match a with
  | .event e => (e.apply s).outcome
  | .asleep => .next s
  | .wake => .next s.wake
  | .enter src level => enterException src level s
  | .run during => runNext during s

/-- One step: an event of another agent, or one boundary action of the CPU (R200, R231). -/
def step (s : State) : Host.Outcome State Fault Refusal := perform s.nextAction.1 s.nextAction.2

/-- The state with an instruction's words placed at `pc`, where the next step fetches; its bits are numbered as
spec/opcode_table.json numbers them. -/
def State.withFetchWord (s : State) (nbits w : Nat) : State :=
  { s with prog := cellSet (cellSet s.prog s.pc.toNat (.word (BitVec.ofNat 24 (w % 2 ^ nbits))))
                     (s.pc.toNat + 2) (.word (BitVec.ofNat 24 (w % 2 ^ nbits / 2 ^ 24))) }

end Sys2Proof.Machine
end

