-- ==== Sys2Proof/Safety.lean ====
section
/-! DEFINITION. What the statements say of a state: the invariant of a run, a boundary with nothing to enter, room for a
frame on the stack, a vector that holds an address, and the data addresses a step can write. -/

namespace Sys2Proof.Machine

/-- `pc` holds an address: even and in the 23 bits that carry one (R20). -/
def State.pcAligned (s : State) : Prop := s.pc.getLsbD 0 = false ∧ s.pc.toNat < 0x800000

/-- `pc` holds an address, and the one `words` instruction words on is an address as well. -/
def State.roomAfter (s : State) (words : Nat) : Prop := s.pcAligned ∧ s.pc.toNat + 2 * words < 0x800000

/-- The invariant that every step keeps. -/
structure State.Inv (s : State) : Prop where
  /-- the device parameters are such as the rules allow (R2, R10, R81, R202) -/
  device : s.cfg.wf = true
  /-- data memory is canonical -/
  memory : Memory.wf s.mem = true
  /-- program memory is canonical -/
  program : Program.wf s.prog = true
  /-- `pc` holds an address -/
  pc : s.pcAligned
  /-- a DISI window is open only while its count is not 0 (R132) -/
  window : s.disiBit = true → s.disicnt ≠ 0#14
  /-- at most four DO levels (R65) -/
  doLevel : s.doLevel ≤ 4
  /-- a soft trap is held off for at most two instructions, and only while it is pending (R262) -/
  skid : ∀ t, s.skidOf t ≤ 2 ∧ (s.skidOf t ≠ 0 → s.trapPending t = true)
  /-- the unimplemented bits of INTCON1 to INTCON4 hold 0 (R31, R41, R46, R47) -/
  intcon1 : s.intcon1 &&& 0x0001#16 = 0#16
  intcon2 : s.intcon2 &&& 0x1FE0#16 = 0#16
  intcon3 : s.intcon3 &&& 0xFF8F#16 = 0#16
  intcon4 : s.intcon4 &&& 0xFFFE#16 = 0#16
  /-- between steps no events wait for a data access -/
  meanwhile : s.meanwhile = []

/-- A boundary of the running CPU with no event due, no old mask value to draw, and nothing to enter. -/
def State.quiet (s : State) : Prop :=
  s.agenda = [] ∧ s.power = .run ∧ s.lag = { gie := none, masks := [] }
    ∧ { s with gieSeen := s.gie }.arbitrate = none

/-- The two words above W15 can be pushed without a trap event (R91, R92, R94), and no register lies there (R81). -/
def State.pushReady (s : State) : Prop :=
  s.sp.getLsbD 0 = false ∧ 0x1000 ≤ s.sp.toNat ∧ s.sp.toNat + 4 < 0x10000
    ∧ s.dataImplemented s.sp.toNat = true ∧ s.dataImplemented (s.sp.toNat + 2) = true
    ∧ s.registerAt s.sp.toNat = none ∧ s.registerAt (s.sp.toNat + 2) = none
    ∧ (s.splimArmed = true → s.sp.toNat + 2 ≤ s.splim.toNat)

/-- The two words below W15 can be popped without a trap event (R91, R92, R94), and no register lies there (R81). -/
def State.popReady (s : State) : Prop :=
  s.sp.getLsbD 0 = false ∧ 0x1004 ≤ s.sp.toNat
    ∧ s.dataImplemented (s.sp.toNat - 2) = true ∧ s.dataImplemented (s.sp.toNat - 4) = true
    ∧ s.registerAt (s.sp.toNat - 2) = none ∧ s.registerAt (s.sp.toNat - 4) = none
    ∧ (s.splimArmed = true → s.sp.toNat - 2 ≤ s.splim.toNat)

/-- The vector of a source is programmed with the address v (R84, U4, U12): the vector location is `slot` of the vector
table, or the one vector of Auxiliary Flash while `pc` lies there (R86). -/
def State.vectorHolds (s : State) (slot : Nat) (v : PAddr) : Prop :=
  (match s.cfg.aux with
    | some x => if s.inAux s.pc.toNat then cellGet s.prog x.vectorAddr.toNat else cellGet s.prog slot
    | none => cellGet s.prog slot) = some (.word v)
    ∧ v.getLsbD 0 = false ∧ v.getLsbD 23 = false

/-! ### Whose turn it is, and the data addresses a step can write -/

/-- It is the running CPU's turn, and `during` are the events that occur during the instruction it runs, in groups. -/
def State.cpuRuns (s : State) (during : List (List Event)) : Prop :=
  s.power = .run ∧ ((s.agenda = [] ∧ during = []) ∨ ∃ rest, s.agenda = .cpu during :: rest)

/-- The data address a DMA write of an event reaches. -/
def Event.writesAt : Event → Option Word
  | .dmaByte ea _ => some ea
  | .dmaWord half _ => some (half ++ 0#1)
  | .irq _ | .extEdge _ _ | .oscFail | .dmaCollision | .dmaAddrErr | .usbAccess _ | .doLoopEnd | .externalReset => none

/-- The data address an act of an instruction outside the table writes. -/
def CpuAct.writesAt (s : State) : CpuAct → Option Word
  | .write (.indirect i disp) _ _ => some (s.operandEa (.indirect i disp) 0)
  | .write (.direct ea) _ _ => some ea
  | .write (.reg _) _ _ | .write (.paged _) _ _ => none
  | .read _ _ | .macFetch _ _ | .accOverflow _ | .accCatastrophic _ => none

/-- The addresses of the two pushes of an entry: W15, and what it holds after the first. -/
def State.pushAddresses (s : State) : List Word :=
  match s.push (frameA s.pc s.sfa) s.pushInhibited [] with
  | .go s1 => [s.sp, s1.sp]
  | _ => [s.sp]

/-- The data addresses an action can write: those of DMA writes, those of the two pushes of an entry, those an
instruction outside the table writes. -/
def Action.writesAt (s : State) : Action → List Word
  | .event e => e.writesAt.toList
  | .asleep | .wake => []
  | .enter _ _ => s.pushAddresses
  | .run during =>
    during.flatten.filterMap Event.writesAt ++
      match s.begin during, s.fetch with
      | .go s1, .outside acts => acts.filterMap (CpuAct.writesAt s1)
      | _, _ => []

/-- An action can write register r by a data write at the register's address (R81, R98). -/
def State.writesData (s : State) (a : Action) (r : RegName) : Prop :=
  ∃ ea ∈ a.writesAt s, s.registerAt ea.toNat = some r

/-- The register whose old value it is. -/
def MaskOld.reg : MaskOld → RegName
  | .iec x _ => .iec x
  | .ipc x _ => .ipc x
  | .ipl _ _ => .sr

/-- The step is no boundary of the running CPU: it is the turn of another agent's event, or the CPU sleeps. -/
def State.noBoundary (s : State) : Prop := (∃ e s1, s.nextAction = (.event e, s1)) ∨ s.power ≠ .run

/-! ### The fields of the registers, each with its register, lowest bit and width as the tables of spec/10_state.md give them -/

/-- The fields that take what is written (R/W): R24, R25, R26 to R31, R32 to R40, R42 to R47, R60, R61, R62. -/
def storedFields : List (FieldName × RegName × Nat × Nat) :=
  [(.srN, .sr, 3, 1), (.srOV, .sr, 2, 1), (.srZ, .sr, 1, 1), (.srC, .sr, 0, 1), (.corconVAR, .corcon, 15, 1),
   (.corconUS, .corcon, 12, 2), (.corconEDT, .corcon, 11, 1), (.corconSATA, .corcon, 7, 1), (.corconSATB, .corcon, 6, 1),
   (.corconSATDW, .corcon, 5, 1), (.corconACCSAT, .corcon, 4, 1), (.corconRND, .corcon, 1, 1), (.corconIF, .corcon, 0, 1)]
  ++ [(.nstdis, .intcon1, 15, 1), (.ovaerr, .intcon1, 14, 1), (.ovberr, .intcon1, 13, 1), (.covaerr, .intcon1, 12, 1),
   (.covberr, .intcon1, 11, 1), (.ovate, .intcon1, 10, 1), (.ovbte, .intcon1, 9, 1), (.covte, .intcon1, 8, 1),
   (.sftacerr, .intcon1, 7, 1), (.div0err, .intcon1, 6, 1), (.dmacerr, .intcon1, 5, 1), (.matherr, .intcon1, 4, 1),
   (.addrerr, .intcon1, 3, 1), (.stkerr, .intcon1, 2, 1), (.oscfail, .intcon1, 1, 1)]
  ++ [(.gie, .intcon2, 15, 1), (.swtrap, .intcon2, 13, 1), (.int4ep, .intcon2, 4, 1), (.int3ep, .intcon2, 3, 1),
   (.int2ep, .intcon2, 2, 1), (.int1ep, .intcon2, 1, 1), (.int0ep, .intcon2, 0, 1), (.uae, .intcon3, 6, 1),
   (.dae, .intcon3, 5, 1), (.doovr, .intcon3, 4, 1), (.sght, .intcon4, 0, 1), (.trapr, .rcon, 15, 1),
   (.clockFail, .osccon, 3, 1), (.masterPriority, .mstrpr, 0, 3)]

/-- The fields that a software write can only clear (R/C): R23, R28. -/
def clearableFields : List (FieldName × RegName × Nat) :=
  [(.srSA, .sr, 13), (.srSB, .sr, 12), (.srSAB, .sr, 10), (.corconIPL3, .corcon, 3)]

/-- The fields that a software write leaves alone (R): R23, R25, R30, R55, R65. -/
def readOnlyFields : List (FieldName × RegName × Nat × Nat) :=
  [(.srOA, .sr, 15, 1), (.srOB, .sr, 14, 1), (.srOAB, .sr, 11, 1), (.srDA, .sr, 9, 1), (.srDC, .sr, 8, 1),
   (.srRA, .sr, 4, 1), (.corconDL, .corcon, 8, 3), (.corconSFA, .corcon, 2, 1), (.ilr, .inttreg, 8, 4),
   (.vecnum, .inttreg, 0, 8)]

/-- The state is one that a device Reset leaves (R300). -/
def State.justReset (t : State) : Prop := ∃ s conflict, t = State.deviceReset s conflict

/-- A step is a safe one when it leads to a next state. -/
def State.stepSafe (s : State) : Prop := ∃ t, step s = .next t

end Sys2Proof.Machine
end

