-- ==== Sys2Proof/Certificates/Slice0/Obligations.lean ====
section
/-! DEFINITION. The statements for the provers. Each names the rules of spec/ it formalises; where one rests on a choice of
the model its docstring names the log entry. -/

open Sys2Proof Sys2Proof.Machine

/-! ### Reset -/

/-- The values that the table of R75 states for the state after Reset (spec/10_state.md section 10). -/
def Obligations.ResetHoldsStatedValues : Prop :=
  State.reset.pc = 0x000000#24 ∧ State.reset.sp = 0x1000#16 ∧ State.reset.splimArmed = false
    ∧ State.reset.sr = 0x0000#16 ∧ State.reset.corcon = 0x0020#16 ∧ State.reset.cpuIpl = 0
    ∧ State.reset.intcon1 = 0x0000#16 ∧ State.reset.intcon2 = 0x8000#16 ∧ State.reset.intcon3 = 0x0000#16
    ∧ State.reset.intcon4 = 0x0000#16 ∧ (∀ x : Fin 16, State.reset.ifs[x] = 0x0000#16)
    ∧ (∀ x : Fin 16, State.reset.iec[x] = 0x0000#16) ∧ (∀ x : Fin 62, State.reset.ipc[x] = 0x4444#16)
    ∧ State.reset.inttreg = 0x0000#16 ∧ State.reset.disicnt = 0#14 ∧ State.reset.gieSeen = true
    ∧ State.reset.power = .run ∧ (∀ t, State.reset.trapPending t = false ∧ State.reset.skidOf t = 0)

/-- RESET is the device Reset from every state (R150, R300, R304): the stated reset values, the memories as they were,
TRAPR as it was. The bits of RCON below TRAPR, and the registers no rule gives a value, are not stated (log entry 9). -/
def Obligations.ResetInstructionResetsDevice : Prop :=
  ∀ s : State, ∃ t, exec .reset s = .next t
    ∧ t.pc = s.resetLocation &&& 0x7FFFFE#24 ∧ (s.cfg.aux = none → t.pc = 0x000000#24)
    ∧ t.sp = 0x1000#16 ∧ t.splimArmed = false ∧ t.sr = 0x0000#16 ∧ t.corcon = 0x0020#16 ∧ t.cpuIpl = 0
    ∧ t.intcon1 = 0x0000#16 ∧ t.intcon2 = 0x8000#16 ∧ t.intcon3 = 0x0000#16 ∧ t.intcon4 = 0x0000#16
    ∧ (∀ x : Fin 16, t.ifs[x] = 0x0000#16 ∧ t.iec[x] = 0x0000#16) ∧ (∀ x : Fin 62, t.ipc[x] = 0x4444#16)
    ∧ t.inttreg = 0x0000#16 ∧ t.disicnt = 0#14 ∧ t.gieSeen = true ∧ t.power = .run
    ∧ t.rcon.getLsbD 15 = s.rcon.getLsbD 15 ∧ t.mem = s.mem ∧ t.prog = s.prog ∧ t.cfg = s.cfg

/-- The event of a hard trap (R272): nothing while its flag is 1; with a pending trap of a higher level or a higher
level in progress, a device Reset with TRAPR = 1; below its own level, its flag, OSCFAIL, ADDRERR or SGHT, is set and
nothing else changes. At its own level the device decides (SAME_LEVEL_HARD_TRAP). That case and the moment of the check
are the spec's own decision D12 (log entry 20, a choice). -/
def Obligations.HardTrapConflictResets : Prop :=
  ∀ (h : Trap) (s : State), trapIsSoft h = false →
    (s.trapPending h = true → raiseHard h s = .go s)
    ∧ (s.trapPending h = false →
        ((∃ t, s.trapPending t = true ∧ s.trapLevel h < s.trapLevel t) ∨ s.trapLevel h < s.cpuIpl
          ∨ (s.cpuIpl = s.trapLevel h ∧ s.cfg.sameLevel = .reset)) →
        ∃ t, raiseHard h s = .cut t ∧ t.rcon.getLsbD 15 = true ∧ t.justReset ∧ t.mem = s.mem ∧ t.prog = s.prog)
    ∧ (s.trapPending h = false → (∀ t, s.trapPending t = true → s.trapLevel t ≤ s.trapLevel h) →
        (s.cpuIpl < s.trapLevel h ∨ (s.cpuIpl = s.trapLevel h ∧ s.cfg.sameLevel = .pend)) →
        raiseHard h s = .go
          { s with intcon1 := s.intcon1 ||| (if h = .oscillator then 0x0002#16 else if h = .address then 0x0008#16 else 0#16)
                   intcon4 := s.intcon4 ||| (if h = .genericHard then 0x0001#16 else 0#16) })

/-! ### Encoding -/

/-- The words of spec/95_test_vectors.md section 3 decode to the instructions they stand for. The encodings are
general knowledge of the spec (log entry 5). -/
def Obligations.WrittenWordsDecode : Prop :=
  decode [0x040200#24, 0x000000#24] = .ok (.goto 0x000200#24) [] ∧ decode [0x000000#24] = .ok .nop []
    ∧ decode [0x37FFFF#24] = .ok (.bra 0xFFFF#16) [] ∧ decode [0xFC0002#24] = .ok (.disi 2#14) []
    ∧ decode [0x064000#24] = .ok .retfie [] ∧ decode [0xFE0000#24] = .ok .reset []
    ∧ decode [0xFE4001#24] = .ok (.pwrsav .idle) [] ∧ decode [0xFE4000#24] = .ok (.pwrsav .sleep) []
    ∧ decode [0x060000#24] = .ok .ret []

/-- An instruction has words exactly when R112 gives it an encoding, as many as R111 says; decoding the words of a
well-formed one gives it back, whatever words follow. The encodings are general knowledge of the spec (log entry 5),
one location for an abstract instruction is log entry 3. -/
def Obligations.DecodeInvertsEncode : Prop :=
  (∀ i : Instr, encode i = none ↔ i.encoded = false)
    ∧ ∀ (i : Instr) (ws rest : List PWord), i.wellFormed = true → encode i = some ws →
        ws.length = i.words ∧ decode (ws ++ rest) = .ok i rest

/-- No first word belongs to two rows of R112, and the decoder rejects one exactly when it belongs to no row, or is a
GOTO whose second word is missing or has a bit set that R112 prints as 0 (R116). The encodings are general knowledge
of the spec (log entry 5). -/
def Obligations.DecoderRejectsOtherWords : Prop :=
  (opTable.Pairwise fun a b => ∀ w : PWord, ¬ (a.hits w = true ∧ b.hits w = true))
    ∧ ∀ (w : PWord) (rest : List PWord),
        (∃ why, decode (w :: rest) = .reject why) ↔
          ((∀ r ∈ opTable, r.hits w = false) ∨
            (OpRow.goto.hits w = true ∧ ∀ w2 rest2, rest = w2 :: rest2 → OpRow.gotoSecond.hits w2 = false))

/-! ### The step -/

/-- A step that runs runs the instruction at `pc`: the words there decoded, the abstract instruction placed there, or the
instruction outside the table placed there; the first of the events that occur during it come first, then exec, or
execOutside, gives its effect, then it retires: the REPEAT loop, the DISI countdown (R134), the skid counters (R262); events
still to come then go to the front of the agenda. That an instruction without an encoding is placed in program memory is log
entries 3 and 13, that events occur during one, in groups between its data accesses, is log entry 14, how a REPEAT loop
iterates is log entry 11, the cycles the countdown counts are log entry 29. -/
def Obligations.StepRunsInstructionAtPc : Prop :=
  ∀ (s s1 : State) (during : List (List Event)), s.nextAction = (.run during, s1) →
    (s1.meanwhile = [] → s1.begin [] = .go s1.clearLag)
    ∧ (∀ es rest, during = es :: rest → s1.begin during = happen es { s1.clearLag with meanwhile := rest })
    ∧ (∀ u : State, u.settle = { u with agenda := u.meanwhile.flatten.map .event ++ u.agenda, meanwhile := [] })
    ∧ (∀ u, s1.begin during = .cut u → step s = .next u.settle)
    ∧ ∀ s2, s1.begin during = .go s2 → s1.progImplemented s1.pc.toNat = true →
        (∀ i : Instr, ((∃ w rest, cellGet s1.prog s1.pc.toNat = some (.word w)
                ∧ decode (s1.wordsAt s1.pc.toNat) = .ok i rest)
              ∨ (cellGet s1.prog s1.pc.toNat = some (.abstr i) ∧ i.wellFormed = true ∧ i.encoded = false)) →
            (∀ t, exec i s2 = .next t →
              step s = .next (((t.iterate (instrIterates i) s2.pc).countInstr i).dropCleared).settle)
            ∧ (∀ f, exec i s2 = .fault f → step s = .fault f)
            ∧ (∀ r, exec i s2 = .refused r → step s = .refused r))
        ∧ (∀ acts : List CpuAct, cellGet s1.prog s1.pc.toNat = some (.outside acts) →
            (∀ t, execOutside acts s2 = .next t →
              step s = .next (((t.iterate true s2.pc).countdown t.cfg.minCycles t.cfg.maxCycles).dropCleared).settle)
            ∧ (∀ f, execOutside acts s2 = .fault f → step s = .fault f)
            ∧ (∀ r, execOutside acts s2 = .refused r → step s = .refused r))

/-- At a quiet boundary the next action is to run, and only `gie_seen` is renewed (R231, R224). An action to enter a source
is its entry sequence (R244), and the turn of another agent's event is that event (R200), taken from the agenda of log
entry 14. -/
def Obligations.QuietBoundaryRuns : Prop :=
  (∀ s : State, s.quiet → s.nextAction = (.run [], { s with gieSeen := s.gie }))
    ∧ (∀ (s s1 : State) (src : Source) (level : Nat), s.nextAction = (.enter src level, s1) →
        step s = enterException src level s1)
    ∧ (∀ (s : State) (e : Event) (rest : List Turn), s.agenda = .event e :: rest →
        s.nextAction = (.event e, { s with agenda := rest }) ∧ step s = (e.apply { s with agenda := rest }).outcome)

/-- While it sleeps the CPU executes nothing and enters nothing: it wakes when the wake-up condition of R280 and D20
holds, and otherwise its turn changes nothing (R68, R151, R280, R281). That a trap wakes is the spec's decision D20
(log entry 41). What a wake-up leaves in DISICNT and the DISI bit is the spec's U7 (spec/93_implementation_defined.md
section 1; log entry 29): a free count up to the one held, and no window when it is 0. -/
def Obligations.SleepingCpuOnlyWakes : Prop :=
  ∀ s : State, s.agenda = [] → s.power ≠ .run →
    ((∃ n, n < 246 ∧ s.irqFlag n = true ∧ s.irqEnable n = true ∧ 1 ≤ s.irqPriority n)
        ∨ (∃ t, s.trapPending t = true ∧ s.cpuIpl < s.trapLevel t) →
      ∃ t, step s = .next t ∧ t.power = .run ∧ t.disicnt.toNat ≤ s.disicnt.toNat
        ∧ t.disiBit = (if t.disicnt = 0#14 then false else s.disiBit)
        ∧ (∀ j, j ≠ 14 → t.intcon2.getLsbD j = s.intcon2.getLsbD j)
        ∧ t = { s with power := .run, disicnt := t.disicnt, intcon2 := t.intcon2, draws := t.draws })
    ∧ (¬ (∃ n, n < 246 ∧ s.irqFlag n = true ∧ s.irqEnable n = true ∧ 1 ≤ s.irqPriority n) →
        ¬ (∃ t, s.trapPending t = true ∧ s.cpuIpl < s.trapLevel t) → step s = .next s)

/-! ### Invariants and rules of the whole machine -/

/-- The invariant holds after Reset. -/
def Obligations.InvariantHoldsAtReset : Prop := State.reset.Inv

/-- Every step keeps the invariant. -/
def Obligations.StepKeepsInvariant : Prop :=
  ∀ s t : State, s.Inv → step s = .next t → t.Inv

/-- No step changes program memory or the device (R104). The spec's decision D15 (log entry 15). -/
def Obligations.ProgramMemoryIsFixed : Prop :=
  ∀ s t : State, step s = .next t → t.prog = s.prog ∧ t.cfg = s.cfg

/-- IPL3 becomes 1 only by the entry of a trap or by RETFIE (R28, R141 (b)). -/
def Obligations.IPL3SetOnlyByTrapEntryOrRetfie : Prop :=
  ∀ s t : State, step s = .next t → s.ipl3 = false → t.ipl3 = true →
    (∃ trap level s1, s.nextAction = (.enter (.trap trap) level, s1))
      ∨ (∃ during s1, s.nextAction = (.run during, s1) ∧ s1.fetch = .instr .retfie)

/-- An interrupt flag goes from 1 to 0 only by a software write to its IFS register, a data write at that register's
address, or a device Reset (R51, R246). Registers in data space are R81; that a DMA write or a push at the address of a
register writes it is log entry 33, which bit belongs to a source is log entry 43. -/
def Obligations.FlagClearedOnlyBySoftwareOrReset : Prop :=
  ∀ (s t : State) (n : Irq), step s = .next t → s.irqFlag n.val = true → t.irqFlag n.val = false →
    t.justReset
      ∨ (∃ a s1, s.nextAction = (a, s1)
          ∧ ((∃ during x v, a = .run during ∧ s1.fetch = .instr (.write (.ifs x) v) ∧ x.val = n.val / 16)
            ∨ (∃ during x b v, a = .run during ∧ s1.fetch = .instr (.writeField (.ifsBit x b) v) ∧ x.val = n.val / 16
                ∧ b.val = n.val % 16)
            ∨ (∃ x, s1.writesData a (.ifs x) ∧ x.val = n.val / 16)))

/-- The arming of the stack limit check (R70): false after Reset; a software write to SPLIM makes it true; no step makes it
false but a device Reset; while it is false the comparison with SPLIM is not made. -/
def Obligations.SPLIMStaysArmedUntilReset : Prop :=
  State.reset.splimArmed = false ∧ (∀ s conflict, (State.deviceReset s conflict).splimArmed = false)
    ∧ (∀ (s : State) (v : Word), ∃ t, exec (.write .splim v) s = .next t ∧ t.splimArmed = true)
    ∧ (∀ s t : State, step s = .next t → s.splimArmed = true → t.splimArmed = true ∨ t.justReset)
    ∧ (∀ (s : State) (ea limit : Word) (wraps : Bool), s.splimArmed = false →
        { s with splim := limit }.stackCauses ea wraps = s.stackCauses ea wraps)

/-! ### Arbitration -/

/-- The arbitration function (R230, R232, R234): the pending trap of greatest level among those above the CPU level; without
one, the candidate interrupt of greatest priority and among those of least number; without either, none. A candidate
requests (R220), passes the level mask (R221) and is not DISI-masked (R223). -/
def Obligations.ArbitrationChoosesWinner : Prop :=
  ∀ s : State,
    (∀ t level, s.arbitrate = some (.trap t, level) ↔
      s.trapPending t = true ∧ s.cpuIpl < s.trapLevel t ∧ level = s.trapLevel t
        ∧ ∀ u, s.trapPending u = true → s.cpuIpl < s.trapLevel u → u = t ∨ s.trapLevel u < s.trapLevel t)
    ∧ (∀ n level, s.arbitrate = some (.irq n, level) ↔
      (¬ ∃ t, s.trapPending t = true ∧ s.cpuIpl < s.trapLevel t) ∧ n < 246 ∧ s.candidate n = true
        ∧ level = s.irqPriority n
        ∧ ∀ m, m < 246 → s.candidate m = true →
            s.irqPriority m < s.irqPriority n ∨ (s.irqPriority m = s.irqPriority n ∧ n ≤ m))
    ∧ (s.arbitrate = none ↔
      (¬ ∃ t, s.trapPending t = true ∧ s.cpuIpl < s.trapLevel t) ∧ ∀ n, n < 246 → s.candidate n = false)
    ∧ (∀ n, s.candidate n = true ↔
      s.cfg.irqImpl.getLsbD n = true ∧ s.irqFlag n = true ∧ s.irqEnable n = true
        ∧ (if 8 ≤ s.cpuIpl ∨ s.gieSeen = true then s.cpuIpl else 7) < s.irqPriority n
        ∧ ¬ (s.disiBit = true ∧ 1 ≤ s.irqPriority n ∧ s.irqPriority n ≤ 6))

/-- An interrupt wins only past every mask (R210, R220 to R223, R234): it is implemented, flagged and enabled, its priority is
above the CPU level and at most 7, no trap is in progress and none can be entered, GIE is seen as 1, and in a DISI window
it is of level 7. The interrupt that wins on the masks a boundary of the running CPU sees is entered there instead of the next
instruction (R231, R244), where no hard trap stops execution (R263). The masks a boundary sees are D6 (log entry 17), the
events that come after the entry are log entry 14. -/
def Obligations.InterruptWinnerPassesEveryMask : Prop :=
  (∀ (s : State) (n level : Nat), s.arbitrate = some (.irq n, level) →
    s.cfg.irqImpl.getLsbD n = true ∧ s.irqFlag n = true ∧ s.irqEnable n = true ∧ level = s.irqPriority n ∧ 1 ≤ level
      ∧ level ≤ 7 ∧ s.cpuIpl < level ∧ s.ipl3 = false ∧ s.gieSeen = true ∧ (s.disiBit = true → level = 7)
      ∧ (∀ t, s.trapPending t = true → s.trapLevel t ≤ s.cpuIpl))
    ∧ (∀ (s : State) (during : List (List Event)) (n level : Nat), s.cpuRuns during →
        (∀ h, trapIsSoft h = false → s.trapPending h = true → s.cpuIpl < s.trapLevel h → s.heldByOldIpl h = true) →
        s.sampleGie.maskView.1.arbitrate = some (.irq n, level) →
        ∃ s1, s.nextAction = (.enter (.irq n) level, s1) ∧ step s = enterException (.irq n) level s1
          ∧ s1 = { s with agenda := during.flatten.map .event ++ s.agenda.tail, gieSeen := s1.gieSeen, draws := s1.draws })

/-- Traps are not maskable: whatever GIE, the DISI window, the IECx and the IPCx registers hold, a trap that would be
entered is entered (R225). -/
def Obligations.TrapsIgnoreInterruptMasks : Prop :=
  ∀ (s : State) (t : Trap) (level : Nat) (seen : Bool) (c2 : Word) (cnt : BitVec 14) (e : Vector Word 16)
    (p : Vector Word 62), s.arbitrate = some (.trap t, level) →
    { s with gieSeen := seen, intcon2 := c2, disicnt := cnt, iec := e, ipc := p }.arbitrate = some (.trap t, level)

/-- Level 0 (R213, R281): a source at priority 0 is effectively disabled, because its flag changes neither what wins
arbitration nor whether the CPU wakes. -/
def Obligations.LevelZeroSourceIsDisabled : Prop :=
  ∀ (s : State) (n : Irq), s.irqPriority n.val = 0 →
    (∀ level, s.arbitrate ≠ some (.irq n.val, level)) ∧ (s.setIrqFlag n).arbitrate = s.arbitrate
      ∧ (s.setIrqFlag n).wakes = s.wakes

/-- The GIE delay (R224): the boundary directly after an instruction that changed GIE sees the old or the new value,
every other boundary sees GIE itself: a step leaves an old GIE only by running a write of INTCON2 or of GIE, or an instruction
during which a data write reaches INTCON2, and until the next boundary of the running CPU. For setting as for clearing
(decision D8, log entry 18); registers in data space are log entry 33. -/
def Obligations.GIEDelayIsOneBoundary : Prop :=
  (∀ s t : State, step s = .next t → t.lag.gie ≠ none →
    (s.noBoundary ∧ t.lag.gie = s.lag.gie)
      ∨ ∃ during s1, s.nextAction = (.run during, s1)
          ∧ ((∃ v, s1.fetch = .instr (.write .intcon2 v) ∨ s1.fetch = .instr (.writeField .gie v))
            ∨ s1.writesData (.run during) .intcon2))
  ∧ ∀ s : State,
    (s.lag.gie = none → s.sampleGie.gieSeen = s.gie)
    ∧ (∀ old, s.lag.gie = some old → s.sampleGie.gieSeen = old ∨ s.sampleGie.gieSeen = s.gie)
    ∧ (∀ v : Bool, s.roomAfter 1 → ∃ t, exec (.writeField .gie (BitVec.ofNat 16 v.toNat)) s.clearLag = .next t
        ∧ t.gie = v ∧ t.lag.gie = (if v = s.gie then none else some s.gie)
        ∧ t = { s.clearLag with pc := s.pc + 2#24, intcon2 := t.intcon2, lag := t.lag })

/-- A pending hard trap above the CPU level stops execution: at a boundary of the running CPU the step enters a trap of at
least its level and runs no instruction, whatever an old IPL<2:0> says (R263). Only a trap that the old level of a write of
IPL<2:0> by the last instruction had kept from entry can be missed there, by a device with the mask write lag (R231), and
after a write that found no such trap none can. That the lag reaches such a trap is D6 (log entry 17). -/
def Obligations.HardTrapStopsExecution : Prop :=
  ∀ (s : State) (during : List (List Event)) (h : Trap), s.cpuRuns during → trapIsSoft h = false →
    s.trapPending h = true → s.cpuIpl < s.trapLevel h →
    (s.cfg.maskWriteLag = false ∨ (∀ old held, .ipl old held ∈ s.lag.masks → h ∉ held) →
      ∃ t level s1, s.nextAction = (.enter (.trap t) level, s1) ∧ step s = enterException (.trap t) level s1
        ∧ s.trapLevel h ≤ level ∧ trapIsSoft t = false)
    ∧ (∀ t level, s.nextAction.1 = .enter (.trap t) level → s.trapPending t = true ∧ level = s.trapLevel t)

/-- The soft trap skid (R262): when arbitration, on the masks a boundary of the running CPU sees, gives a soft trap, that
boundary enters it or runs one more instruction, the latter only while fewer than two have been run, and counts it; a
step that ran keeps the count while the trap's flag is 1 and no data write reaches a register, so after two the boundary
enters. The bound is decision D9 (log entry 19), the masks it sees are D6 (log entry 17). -/
def Obligations.SoftTrapSkidIsBounded : Prop :=
  ∀ (s : State) (during : List (List Event)) (t : Trap) (level : Nat), s.cpuRuns during → trapIsSoft t = true →
    s.sampleGie.maskView.1.arbitrate = some (.trap t, level) →
    (s.nextAction.1 = .enter (.trap t) level
      ∨ (s.nextAction.1 = .run during ∧ s.skidOf t < 2 ∧ s.nextAction.2.skidOf t = s.skidOf t + 1))
    ∧ (2 ≤ s.skidOf t → s.nextAction.1 = .enter (.trap t) level)
    ∧ (∀ u, s.nextAction.1 = .run during → step s = .next u → u.trapPending t = true →
        (∀ r, ¬ s.nextAction.2.writesData (.run during) r) → u.skidOf t = s.skidOf t + 1)

/-! ### The entry sequence -/

/-- The entry of an interrupt with room on the stack (R241 to R246, R252, R85, R205): the frame, the new level, INTTREG,
`pc` from the vector at 0x000014 + 2n; the status flags, INTCON2 but the DISI bit, every other register and every other
byte of memory as before. A DISI window counts the entry's 13 or 14 cycles, or 9 to 14 with VAR = 1, where MSTRPR<2:0> is 000
and a free number where it is not, and nothing is counted without one (R134, R333 to R335). SFA, RA, DA, DL, the REPEAT and the DO state are free (U9, U10). The frame layout is log
entry 22, the free values are log entry 25, when INTTREG is latched is D17 (log entry 49), the level with NSTDIS = 1 and the
stacked address are D11 and D23 (log entry 50), the range of the cycles is log entry 29. -/
def Obligations.InterruptEntry : Prop :=
  ∀ (s : State) (n : Irq) (level : Nat) (v : PAddr), s.Inv → s.pushReady → s.vectorHolds (0x000014 + 2 * n.val) v →
    1 ≤ level → level ≤ 7 →
    ∃ t, enterException (.irq n.val) level s = .next t
      ∧ t.pc = v ∧ t.sp = s.sp + 4#16
      ∧ t.readWord s.sp = some (frameA s.pc s.sfa) ∧ t.readWord (s.sp + 2#16) = some (frameB s.srl s.ipl3 s.pc)
      ∧ (∀ a, a < s.sp.toNat ∨ s.sp.toNat + 4 ≤ a → t.readByte a = s.readByte a)
      ∧ t.ipl3 = false ∧ t.ipl = (if s.nstdis then 7 else level)
      ∧ t.inttreg.extractLsb' 0 8 = BitVec.ofNat 8 n.val
      ∧ (t.inttreg.extractLsb' 8 4 = BitVec.ofNat 4 level
          ∨ (s.nstdis = true ∧ t.inttreg.extractLsb' 8 4 = 7#4))
      ∧ (∀ j, j < 4 ∨ 10 ≤ j ∨ j = 8 → t.sr.getLsbD j = s.sr.getLsbD j)
      ∧ (∀ j, j ≠ 2 → j ≠ 3 → j < 8 ∨ 11 ≤ j → t.corcon.getLsbD j = s.corcon.getLsbD j)
      ∧ (∀ j, j ≠ 14 → t.intcon2.getLsbD j = s.intcon2.getLsbD j)
      ∧ (s.disiBit = false → t.disicnt = s.disicnt ∧ t.intcon2 = s.intcon2)
      ∧ (s.disiBit = true → ∃ c, 1 ≤ c
          ∧ (s.mstrpr &&& 0x0007#16 = 0#16 → (if s.varLatency then 9 else 13) ≤ c ∧ c ≤ 14)
          ∧ t.disicnt.toNat = s.disicnt.toNat - c ∧ (t.disiBit = true ↔ c < s.disicnt.toNat))
      ∧ (∀ i : Fin 16, i ≠ 15 → t.reg i = s.reg i) ∧ t.lag = { gie := none, masks := [] }
      ∧ t = { s with w := t.w, pc := t.pc, sr := t.sr, corcon := t.corcon, intcon2 := t.intcon2, inttreg := t.inttreg,
                     disicnt := t.disicnt, doStack := t.doStack, rpt := t.rpt, lag := t.lag, mem := t.mem,
                     draws := t.draws }

/-- The entry of a trap with room on the stack (R243, R244, R245, R203, R85): the CPU level is the trap's, 14, 13, 15, 12, 11,
10 and 8 or 9, whatever NSTDIS is; `pc` comes from the vector at 0x000004 + 2v for the trap's own vector number v, which no
other trap has (R202); everything else as for an interrupt. The levels of the generic traps and the numbers are log entry
21, the frame layout is log entry 22, the free values are log entry 25, when INTTREG is latched is D17 (log entry 49), that
NSTDIS does not touch traps and the stacked address are D11 and D23 (log entry 50), the range of the cycles is log entry
29. -/
def Obligations.TrapEntry : Prop :=
  ∀ (s : State) (tr : Trap) (level : Nat) (v : PAddr), s.Inv → s.pushReady →
    s.vectorHolds (0x000004 + 2 * s.trapVector tr) v →
    level = (match tr with
      | .oscillator => 14 | .address => 13 | .genericHard => 15 | .stack => 12 | .math => 11 | .dmac => 10
      | .genericSoft => if s.cfg.genericSoftIs9 then 9 else 8) →
    s.trapLevel tr = level ∧ s.trapVector tr < 8 ∧ (∀ u, s.trapVector u = s.trapVector tr → u = tr)
    ∧ ∃ t, enterException (.trap tr) level s = .next t
      ∧ t.pc = v ∧ t.sp = s.sp + 4#16
      ∧ t.readWord s.sp = some (frameA s.pc s.sfa) ∧ t.readWord (s.sp + 2#16) = some (frameB s.srl s.ipl3 s.pc)
      ∧ (∀ a, a < s.sp.toNat ∨ s.sp.toNat + 4 ≤ a → t.readByte a = s.readByte a)
      ∧ t.ipl3 = true ∧ t.cpuIpl = level ∧ t.inttreg.extractLsb' 8 4 = BitVec.ofNat 4 level
      ∧ (∀ j, j < 4 ∨ 10 ≤ j ∨ j = 8 → t.sr.getLsbD j = s.sr.getLsbD j)
      ∧ (∀ j, j ≠ 2 → j ≠ 3 → j < 8 ∨ 11 ≤ j → t.corcon.getLsbD j = s.corcon.getLsbD j)
      ∧ (∀ j, j ≠ 14 → t.intcon2.getLsbD j = s.intcon2.getLsbD j)
      ∧ (s.disiBit = false → t.disicnt = s.disicnt ∧ t.intcon2 = s.intcon2)
      ∧ (s.disiBit = true → ∃ c, 1 ≤ c
          ∧ (s.mstrpr &&& 0x0007#16 = 0#16 → (if s.varLatency then 9 else 13) ≤ c ∧ c ≤ 14)
          ∧ t.disicnt.toNat = s.disicnt.toNat - c ∧ (t.disiBit = true ↔ c < s.disicnt.toNat))
      ∧ (∀ i : Fin 16, i ≠ 15 → t.reg i = s.reg i) ∧ t.lag = { gie := none, masks := [] }
      ∧ (∀ u, t.skidOf u = if u = tr then 0 else s.skidOf u)
      ∧ t = { s with w := t.w, pc := t.pc, sr := t.sr, corcon := t.corcon, intcon2 := t.intcon2, inttreg := t.inttreg,
                     disicnt := t.disicnt, doStack := t.doStack, rpt := t.rpt, lag := t.lag, skid := t.skid,
                     mem := t.mem, draws := t.draws }

/-- The entry sequence clears no flag: no IFSx, IECx or IPCx changes and no trap status bit becomes 0, unless a hard trap
conflict of its own pushes resets the device (R246, R48, R272), or one of its two pushes falls at the register's address
(R81, log entry 33). The conflict is of the address error of a push, or of a push at the address of INTCON1, INTCON2 or
INTCON4, with what was pending or in progress before that push, or, there, with another hard trap event of the same entry
(log entry 20). -/
def Obligations.EntryClearsNoFlag : Prop :=
  ∀ (s t : State) (src : Source) (level : Nat), enterException src level s = .next t →
    (t.justReset ∧ t.rcon.getLsbD 15 = true
      ∧ ∃ u, (u = s ∨ s.push (frameA s.pc s.sfa) s.pushInhibited [] = .go u)
          ∧ ((Cause.address ∈ u.pushCauses ∧ u.trapPending .address = false ∧ u.hardConflict .address = true)
            ∨ ((s.writesData (.enter src level) .intcon1 ∨ s.writesData (.enter src level) .intcon2
                  ∨ s.writesData (.enter src level) .intcon4)
                ∧ ∃ h, trapIsSoft h = false ∧ u.trapPending h = false
                    ∧ (u.hardConflict h = true ∨ ∃ g, g ≠ h ∧ trapIsSoft g = false ∧ s.trapPending g = false)))) ∨
      ((∀ x : Fin 16, ¬ s.writesData (.enter src level) (.ifs x) → t.ifs[x] = s.ifs[x])
        ∧ (∀ x : Fin 16, ¬ s.writesData (.enter src level) (.iec x) → t.iec[x] = s.iec[x])
        ∧ (∀ x : Fin 62, ¬ s.writesData (.enter src level) (.ipc x) → t.ipc[x] = s.ipc[x])
        ∧ (¬ s.writesData (.enter src level) .intcon1 → ∀ j, s.intcon1.getLsbD j = true → t.intcon1.getLsbD j = true)
        ∧ (¬ s.writesData (.enter src level) .intcon3 → t.intcon3 = s.intcon3)
        ∧ (¬ s.writesData (.enter src level) .intcon4 → s.intcon4.getLsbD 0 = true → t.intcon4.getLsbD 0 = true))

/-- A stack error lets the access happen (R94, R95, R264; spec/95_test_vectors.md 2.10 row 11 and 2.6 row 5): an entry
that pushes past SPLIM writes both words and goes to its vector with STKERR set; a return whose first pop lies below
0x1000, for a RETURN with no event to come between them, completes with STKERR set, where its words are known and no address error of
the pops makes a hard trap conflict, which resets the device. That a return pops two words is R140 for RETFIE and, for RETURN
(R154), log entry 39. That the pushes and pops are checked is decision D18 (log entry 44), the frame layout is log entry
22. -/
def Obligations.StackErrorsPerformTheAccess : Prop :=
  (∀ (s : State) (n : Irq) (level : Nat) (v : PAddr), s.Inv → s.sp.getLsbD 0 = false → 0x1000 ≤ s.sp.toNat →
    s.sp.toNat + 4 < 0x10000 → s.dataImplemented s.sp.toNat = true → s.dataImplemented (s.sp.toNat + 2) = true →
    s.registerAt s.sp.toNat = none → s.registerAt (s.sp.toNat + 2) = none →
    s.splimArmed = true → s.splim.toNat < s.sp.toNat + 2 → s.vectorHolds (0x000014 + 2 * n.val) v → 1 ≤ level →
    level ≤ 7 →
    ∃ t, enterException (.irq n.val) level s = .next t ∧ t.trapPending .stack = true ∧ t.sp = s.sp + 4#16
      ∧ t.readWord s.sp = some (frameA s.pc s.sfa) ∧ t.readWord (s.sp + 2#16) = some (frameB s.srl s.ipl3 s.pc)
      ∧ t.pc = v)
    ∧ (∀ (s : State) (i : Instr), (i = .retfie ∨ i = .ret) → 4 ≤ s.sp.toNat → s.sp.toNat < 0x1002 →
        (i = .ret → s.meanwhile = []) → s.pop.value ≠ none → s.pop.st.pop.value ≠ none →
        ∃ t, exec i s = .next t
          ∧ ((s.hardConflict .address = true ∧ t.justReset ∧ t.rcon.getLsbD 15 = true)
            ∨ (t.trapPending .stack = true ∧ t.sp = s.sp - 4#16 ∧ t.mem = s.mem)))

/-! ### The returns -/

/-- RETFIE whose two pops pass the checks (R140, R141): SRL, IPL3, SFA and `pc` come from the frame, W15 drops by 4,
and nothing else changes: no flag is cleared, INTTREG, DISICNT and SR<15:8> are as before. It is one indivisible step, so no
event of another agent comes between its pops (D1). Where nothing has written one of the two words the model stops (D16). The
frame layout is log entry 22, the fault is log entry 8. -/
def Obligations.RetfieRestoresFrame : Prop :=
  ∀ s : State, s.popReady →
    (∀ a b : Word, s.readWord (s.sp - 2#16) = some b → s.readWord (s.sp - 4#16) = some a →
      ∃ t, exec .retfie s = .next t
        ∧ t.srl = b.extractLsb' 8 8 ∧ t.ipl3 = b.getLsbD 7 ∧ t.sfa = a.getLsbD 0 ∧ t.pc = framePc b a
        ∧ t.sp = s.sp - 4#16 ∧ (∀ i : Fin 16, i ≠ 15 → t.reg i = s.reg i)
        ∧ (∀ j, 8 ≤ j → t.sr.getLsbD j = s.sr.getLsbD j)
        ∧ (∀ j, j ≠ 2 → j ≠ 3 → t.corcon.getLsbD j = s.corcon.getLsbD j)
        ∧ t = { s with w := t.w, pc := t.pc, sr := t.sr, corcon := t.corcon })
    ∧ (s.readWord (s.sp - 2#16) = none ∨ s.readWord (s.sp - 4#16) = none →
        exec .retfie s = .fault .readOfUnwrittenMemory)

/-- RETFIE undoes the entry: from any later state whose W15, memory and device are those the entry left, it restores
`pc`, SRL and so the level, IPL3, SFA and W15 of the interrupted state (R140, R244, R250). The frame layout is log
entry 22. -/
def Obligations.RetfieUndoesEntry : Prop :=
  ∀ (s t u : State) (src : Source) (level : Nat), s.Inv → s.pushReady →
    enterException src level s = .next t → u.sp = t.sp → u.mem = t.mem → u.cfg = t.cfg →
    u.splim = t.splim → u.splimArmed = t.splimArmed →
    ∃ r, exec .retfie u = .next r ∧ r.pc = s.pc ∧ r.srl = s.srl ∧ r.ipl3 = s.ipl3 ∧ r.cpuIpl = s.cpuIpl
      ∧ r.sfa = s.sfa ∧ r.sp = s.sp ∧ r.mem = t.mem

/-- RETURN whose two pops pass the checks (R154): `pc` comes from the two words, W15 drops by 4, SR and IPL3 are not
written; SFA is free (U9). Where nothing has written one of the two words the model stops (D16). Events of other agents that
occur between the two pops come after the first word is read and before the second is, and a Reset among them ends the
instruction (R101, R300, D14). The two-word form is log entry 39, the fault is log entry 8, which events occur is log entry
14. -/
def Obligations.ReturnLoadsPcOnly : Prop :=
  ∀ s : State, s.popReady →
    (s.meanwhile = [] → ∀ a b : Word, s.readWord (s.sp - 2#16) = some b → s.readWord (s.sp - 4#16) = some a →
      ∃ t, exec .ret s = .next t
        ∧ t.pc = framePc b a ∧ t.sp = s.sp - 4#16 ∧ (∀ i : Fin 16, i ≠ 15 → t.reg i = s.reg i)
        ∧ (∀ j, j ≠ 2 → t.corcon.getLsbD j = s.corcon.getLsbD j)
        ∧ t = { s with w := t.w, pc := t.pc, corcon := t.corcon, draws := t.draws })
    ∧ (s.meanwhile = [] → s.readWord (s.sp - 2#16) = none ∨ s.readWord (s.sp - 4#16) = none →
        exec .ret s = .fault .readOfUnwrittenMemory)
    ∧ (∀ b es rest, s.meanwhile = es :: rest → s.readWord (s.sp - 2#16) = some b →
        (∀ u, happen es { s.setReg 15 (s.sp - 2#16) with meanwhile := rest } = .cut u → exec .ret s = .next u)
        ∧ (∀ u a, happen es { s.setReg 15 (s.sp - 2#16) with meanwhile := rest } = .go u →
            u.pop.causes = [] → u.readWord (u.sp - 2#16) = some a → u.registerAt (u.sp - 2#16).toNat = none →
            ∃ t, exec .ret s = .next t ∧ t.pc = framePc b a ∧ t.sp = u.sp - 2#16
              ∧ (∀ i : Fin 16, i ≠ 15 → t.reg i = u.reg i)
              ∧ (∀ j, j ≠ 2 → t.corcon.getLsbD j = u.corcon.getLsbD j)
              ∧ t = { u with w := t.w, pc := t.pc, corcon := t.corcon, draws := t.draws }))

/-! ### Control flow and power -/

/-- NOP (R155): `pc <- pc + 2` and nothing else; past the top of program space `pc` is free (N30). The free address is
log entry 24. -/
def Obligations.NopAdvancesPc : Prop :=
  ∀ s : State, (s.roomAfter 1 → exec .nop s = .next { s with pc := s.pc + 2#24 })
    ∧ (s.pcAligned → ¬ s.roomAfter 1 →
        ∃ a, exec .nop s = .next { s with pc := a, draws := s.draws + 1 } ∧ a.getLsbD 0 = false ∧ a.getLsbD 23 = false)

/-- GOTO and BRA to implemented program memory (R152, R153, R112): `pc` is the target, and nothing else changes. BRA's
offset is general knowledge of the spec (log entry 5). -/
def Obligations.JumpsReachImplementedTargets : Prop :=
  ∀ (s : State) (target : PAddr) (offset : Word),
    ((Instr.goto target).wellFormed = true → s.progImplemented target.toNat = true →
      exec (.goto target) s = .next { s with pc := target })
    ∧ (s.pcAligned → target.toNat < 0x800000 → (target.toNat : Int) = s.pc.toNat + 2 + 2 * offset.toInt →
      s.progImplemented target.toNat = true → exec (.bra offset) s = .next { s with pc := target })

/-- GOTO and BRA to unimplemented program memory (R152, R153, R277 (4)) without a hard trap conflict: the address
error is pending, `pc` is the target or the address after the instruction (U15), no register and no memory changes.
The choice of `pc` is log entry 27. -/
def Obligations.JumpToUnimplementedRaisesAddressError : Prop :=
  ∀ (s : State) (target : PAddr) (offset : Word), s.hardConflict .address = false →
    s.progImplemented target.toNat = false → target.getLsbD 0 = false → target.toNat < 0x800000 →
    (s.roomAfter 2 → ∃ t, exec (.goto target) s = .next t ∧ t.trapPending .address = true
      ∧ (t.pc = target ∨ t.pc = s.pc + 4#24)
      ∧ t = { s with pc := t.pc, intcon1 := s.intcon1 ||| 0x0008#16, draws := s.draws + 1 })
    ∧ (s.roomAfter 1 → (target.toNat : Int) = s.pc.toNat + 2 + 2 * offset.toInt →
      ∃ t, exec (.bra offset) s = .next t ∧ t.trapPending .address = true
        ∧ (t.pc = target ∨ t.pc = s.pc + 2#24)
        ∧ t = { s with pc := t.pc, intcon1 := s.intcon1 ||| 0x0008#16, draws := s.draws + 1 })

/-- A fetch at unimplemented program memory (R106, R277 (6), U14): no instruction executes, `pc` is unchanged and the
address error is raised, which on a hard trap conflict is a Reset with TRAPR = 1 (R272), or it waits where its flag is already
1; at CPU level 13 or above with its flag already 1 the machine is stuck. The narrow reading U14 is log entry 26; the events that occur at that moment are log entry 14. -/
def Obligations.FetchFromUnimplementedRaisesAddressError : Prop :=
  ∀ (s s1 s2 : State) (during : List (List Event)), s.nextAction = (.run during, s1) → s1.begin during = .go s2 →
    s1.progImplemented s1.pc.toNat = false →
    s2.pc = s.pc
    ∧ (s2.trapPending .address = false → ∃ t, step s = .next t
      ∧ ((s2.hardConflict .address = true ∧ t.justReset ∧ t.rcon.getLsbD 15 = true)
        ∨ (s2.hardConflict .address = false ∧ t.trapPending .address = true
          ∧ t = { s2 with intcon1 := s2.intcon1 ||| 0x0008#16
                          agenda := s2.meanwhile.flatten.map .event ++ s2.agenda, meanwhile := [] })))
    ∧ (s2.trapPending .address = true → s2.cpuIpl < 13 → step s = .next s2.settle)
    ∧ (s2.trapPending .address = true → 13 ≤ s2.cpuIpl → step s = .fault .stuckAtUnimplementedPc)

/-- PWRSAV (R151): the mode its operand selects, `pc <- pc + 2`, nothing else. -/
def Obligations.PwrsavSelectsMode : Prop :=
  ∀ s : State, s.roomAfter 1 →
    exec (.pwrsav .sleep) s = .next { s with power := .sleep, pc := s.pc + 2#24 }
      ∧ exec (.pwrsav .idle) s = .next { s with power := .idle, pc := s.pc + 2#24 }

/-! ### DISI -/

/-- DISI (R130): the literal replaces the count, the DISI bit is 1 unless it is 0, and nothing else changes but `pc`. -/
def Obligations.DisiLoadsCount : Prop :=
  ∀ (s : State) (k : BitVec 14), s.roomAfter 1 →
    ∃ t, exec (.disi k) s = .next t ∧ t.disicnt = k ∧ (t.disiBit = true ↔ k ≠ 0#14)
      ∧ (∀ j, j ≠ 14 → t.intcon2.getLsbD j = s.intcon2.getLsbD j)
      ∧ t = { s with pc := s.pc + 2#24, disicnt := k, intcon2 := t.intcon2 }

/-- The countdown (R134): what an instruction, or an entry, subtracts while the DISI bit is 1 is at least one cycle,
the count stops at 0, and at 0 the window closes; while the bit is 0 nothing is counted. DISI leaves the count it loaded
(R131), RETFIE takes 3 cycles (R142), NOP 1, and every other instruction a number between the bounds of the device (R335). The
bounds are log entry 29. -/
def Obligations.CountdownClosesWindow : Prop :=
  (∀ (s : State) (i : Instr),
    ((∃ k, i = .disi k) → s.countInstr i = s) ∧ (i = .retfie → s.countInstr i = s.countdown 3 3)
      ∧ (i = .nop → s.countInstr i = s.countdown 1 1)
      ∧ ((∀ k, i ≠ .disi k) → i ≠ .retfie → i ≠ .nop →
          s.countInstr i = s.countdown s.cfg.minCycles s.cfg.maxCycles))
  ∧ ∀ (s : State) (lo hi : Nat),
    (s.disiBit = false → s.countdown lo hi = s)
    ∧ (s.disiBit = true → ∃ c, 1 ≤ c ∧ lo ≤ c ∧ (c ≤ hi ∨ c = max 1 lo)
        ∧ (s.countdown lo hi).disicnt.toNat = s.disicnt.toNat - c
        ∧ ((s.countdown lo hi).disiBit = true ↔ c < s.disicnt.toNat)
        ∧ (∀ j, j ≠ 14 → (s.countdown lo hi).intcon2.getLsbD j = s.intcon2.getLsbD j)
        ∧ s.countdown lo hi = { s with disicnt := (s.countdown lo hi).disicnt, intcon2 := (s.countdown lo hi).intcon2,
                                       draws := (s.countdown lo hi).draws })

/-- A software write to DISICNT (R133): in an open window it sets the count and 0 closes the window; with no window
open it opens none, and the count is then free (U5). The free count is log entry 29. -/
def Obligations.DisicntWriteCannotOpenWindow : Prop :=
  ∀ (s : State) (v : Word), s.roomAfter 1 →
    ∃ t, exec (.write .disicnt v) s = .next t
      ∧ (s.disiBit = true → t.disicnt = v.extractLsb' 0 14 ∧ (t.disiBit = true ↔ v.extractLsb' 0 14 ≠ 0#14))
      ∧ (s.disiBit = false → t.disiBit = false)
      ∧ (∀ j, j ≠ 14 → t.intcon2.getLsbD j = s.intcon2.getLsbD j)
      ∧ t = { s with pc := s.pc + 2#24, disicnt := t.disicnt, intcon2 := t.intcon2, draws := t.draws }

/-! ### Mathematics and loops -/

/-- REPEAT (R156): a loop begins, in its first iteration; how often it iterates is free; nothing else changes. How the
loop iterates is the model's choice (log entry 11). -/
def Obligations.RepeatBeginsLoop : Prop :=
  ∀ s : State, s.roomAfter 1 →
    ∃ t, exec .rept s = .next t ∧ t.repeatActive = true ∧ t.rpt.first = true
      ∧ (∀ j, j ≠ 4 → t.sr.getLsbD j = s.sr.getLsbD j)
      ∧ t = { s with pc := s.pc + 2#24, sr := t.sr, rpt := t.rpt, draws := t.draws }

/-- A divide instruction (R156, R267): DIV0ERR and MATHERR are set exactly when the divisor is 0 in the first
iteration; its two result registers take free values; nothing else changes. That a divide outside a loop is its own
first iteration is the model's choice (log entry 11), the result registers are log entry 38. -/
def Obligations.DivideByZeroRaisesMathError : Prop :=
  ∀ (s : State) (d : Fin 16), s.roomAfter 1 →
    ∃ q r n, exec (.div d) s = .next
      { s with w := (s.w.set s.cfg.quotientReg.val q).set s.cfg.remainderReg.val r
               intcon1 := if (s.repeatActive = false ∨ s.rpt.first = true) ∧ s.reg d = 0#16
                          then s.intcon1 ||| 0x0050#16 else s.intcon1
               pc := s.pc + 2#24
               draws := n }

/-- SFTAC by more than 16 either way (R157, R268): SFTACERR and MATHERR are set, the accumulators keep their values, `pc`
advances and nothing else changes. -/
def Obligations.InvalidShiftRaisesMathError : Prop :=
  ∀ (s : State) (acc : AccName) (amount : ShiftAmount), s.cfg.hasDsp = true → s.roomAfter 1 →
    (s.shiftAmount amount < -16 ∨ 16 < s.shiftAmount amount) →
    exec (.sftac acc amount) s = .next { s with intcon1 := s.intcon1 ||| 0x0090#16, pc := s.pc + 2#24 }

/-- SFTAC by -16 to 16 (R157): the accumulator is written with the shifted value, or with a free one where its number
format does not hold that value; the other accumulator and everything but the status flags and `pc` are unchanged, INTCON1
but for the overflow events of R164, which only a left shift that may carry a bit out can raise, with their enable set and
saturation off; MATHERR becomes 1 only with one of them. The direction, the sign, the free flags, the free value and which
carry-outs are events are log entry 37, and so is the refusal on a device without accumulators, which is the model's; which
bits of CORCON select saturation is log entry 12. -/
def Obligations.LegalShiftWritesAccumulator : Prop :=
  ∀ (s : State) (acc : AccName) (amount : ShiftAmount),
    (s.cfg.hasDsp = true → s.roomAfter 1 → -16 ≤ s.shiftAmount amount → s.shiftAmount amount ≤ 16 →
      ∃ t, exec (.sftac acc amount) s = .next t
        ∧ (s.shiftLeavesFormat acc (s.shiftAmount amount) = false →
            t.acc acc = shiftAcc s.cfg (s.acc acc) (s.shiftAmount amount))
        ∧ (∀ other, other ≠ acc → t.acc other = s.acc other)
        ∧ (∀ j, j = 4 ∨ j = 5 ∨ j = 6 ∨ j = 7 ∨ j = 9 → t.sr.getLsbD j = s.sr.getLsbD j)
        ∧ (∀ j, s.intcon1.getLsbD j = true → t.intcon1.getLsbD j = true)
        ∧ (shiftsLeft s.cfg (s.shiftAmount amount) = false
            ∨ mayCarryOut (s.acc acc) (s.shiftAmount amount).natAbs 31 = false → t.intcon1 = s.intcon1)
        ∧ (∀ j, t.intcon1.getLsbD j = true → s.intcon1.getLsbD j = true
            ∨ ((j = 4 ∨ j = 14) ∧ acc = .a ∧ s.intcon1.getLsbD 10 = true ∧ s.saturates31 .a = false)
            ∨ ((j = 4 ∨ j = 13) ∧ acc = .b ∧ s.intcon1.getLsbD 9 = true ∧ s.saturates31 .b = false)
            ∨ ((j = 4 ∨ j = 12) ∧ acc = .a ∧ s.intcon1.getLsbD 8 = true ∧ s.saturates .a = false)
            ∨ ((j = 4 ∨ j = 11) ∧ acc = .b ∧ s.intcon1.getLsbD 8 = true ∧ s.saturates .b = false))
        ∧ t = { s with accA := t.accA, accB := t.accB, sr := t.sr, intcon1 := t.intcon1, pc := s.pc + 2#24,
                       draws := t.draws })
    ∧ (s.cfg.hasDsp = false → exec (.sftac acc amount) s = .refused .noAccumulators)

/-- DO with four loops under way (R158, R275): DOOVR is set and no DO state changes; where it continues is free. The
free address is log entry 10. -/
def Obligations.DOOverflowKeepsLoopState : Prop :=
  ∀ s : State, s.doLevel = 4 →
    ∃ a, exec .doLoop s = .next { s with intcon3 := s.intcon3 ||| 0x0010#16, pc := a, draws := s.draws + 1 }

/-- DO below four loops starts one (R158, R65): DL counts one more, DA is 1, no trap; the entry of the DO stack that DL
addressed is free. That DL counts up here, and which entry DO writes, are DEDUCED (log entry 10). -/
def Obligations.DOStartsLoop : Prop :=
  ∀ s : State, s.doLevel < 4 → s.roomAfter 1 →
    ∃ t, exec .doLoop s = .next t ∧ t.doLevel = s.doLevel + 1 ∧ t.sr.getLsbD 9 = true
      ∧ (∀ j, j ≠ 9 → t.sr.getLsbD j = s.sr.getLsbD j)
      ∧ (∀ j, j < 8 ∨ 11 ≤ j → t.corcon.getLsbD j = s.corcon.getLsbD j)
      ∧ (∀ k : Fin 4, k.val ≠ s.doLevel → t.doStack[k] = s.doStack[k])
      ∧ t = { s with sr := t.sr, corcon := t.corcon, doStack := t.doStack, pc := s.pc + 2#24, draws := t.draws }

/-! ### Data access -/

/-- The access checks (R91 to R94, R162, R166): when a byte or word access through an operand, a read or a write, and a push
or a pop, raises the address error, and when the stack error. That no other check is made on a paged access is log entry
16; that the stack checks are made on every EA through W15 is D18 (log entry 44), on the displacement form of log entry 4;
whether a write to unimplemented memory traps is D26 (log entry 44); what counts as a wrap past the last push and below 0
is the device's (log entry 23). -/
def Obligations.AccessChecks : Prop :=
  ∀ (s : State) (i : Fin 16) (disp : Int) (ea : Word) (wide : Bool),
    (Cause.address ∈ s.operandReadCauses (.paged ea) 0 wide ↔ ((wide = true ∧ ea.getLsbD 0 = true) ∨ s.dsrPage = 0#16))
    ∧ (Cause.address ∈ s.operandWriteCauses (.paged ea) wide ↔ ((wide = true ∧ ea.getLsbD 0 = true) ∨ s.dswPage = 0#16))
    ∧ (Cause.address ∈ s.operandReadCauses (.direct ea) 0 wide ↔
        ((wide = true ∧ ea.getLsbD 0 = true) ∨ s.dataImplemented ea.toNat = false))
    ∧ (Cause.address ∈ s.operandWriteCauses (.direct ea) wide ↔
        ((wide = true ∧ ea.getLsbD 0 = true) ∨ (s.dataImplemented ea.toNat = false ∧ s.cfg.writeUnimplTraps = true)))
    ∧ (∀ at_, at_ = BitVec.ofInt 16 ((s.reg i).toNat + disp) →
        (Cause.address ∈ s.operandReadCauses (.indirect i disp) 0 wide ↔
          ((wide = true ∧ at_.getLsbD 0 = true) ∨ s.dataImplemented at_.toNat = false))
        ∧ (Cause.address ∈ s.operandWriteCauses (.indirect i disp) wide ↔
          ((wide = true ∧ at_.getLsbD 0 = true) ∨ (s.dataImplemented at_.toNat = false ∧ s.cfg.writeUnimplTraps = true)))
        ∧ (Cause.stack ∈ s.operandReadCauses (.indirect i disp) 0 wide ↔
          (i = 15 ∧ (at_.toNat < 0x1000 ∨ (s.splimArmed = true ∧ s.splim.toNat < at_.toNat)
            ∨ 0x10000 ≤ (s.sp.toNat : Int) + disp ∨ ((s.sp.toNat : Int) + disp < 0 ∧ s.cfg.belowZeroWraps = true))))
        ∧ (Cause.stack ∈ s.operandWriteCauses (.indirect i disp) wide ↔
          Cause.stack ∈ s.operandReadCauses (.indirect i disp) 0 wide))
    ∧ (∀ o, Cause.stack ∈ s.operandReadCauses o 0 wide ∨ Cause.stack ∈ s.operandWriteCauses o wide →
        ∃ d, o = .indirect 15 d)
    ∧ (Cause.stack ∈ s.pushCauses ↔
        (s.sp.toNat < 0x1000 ∨ (s.splimArmed = true ∧ s.splim.toNat < s.sp.toNat)
          ∨ (0x10000 ≤ s.sp.toNat + 2 ∧ s.cfg.pushWraps = true)))
    ∧ (Cause.stack ∈ s.pop.causes ↔
        ((s.sp - 2#16).toNat < 0x1000 ∨ (s.splimArmed = true ∧ s.splim.toNat < (s.sp - 2#16).toNat)
          ∨ (s.sp.toNat < 2 ∧ s.cfg.belowZeroWraps = true)))
    ∧ (Cause.address ∈ s.pushCauses ↔
        (s.sp.getLsbD 0 = true ∨ (s.dataImplemented s.sp.toNat = false ∧ s.cfg.writeUnimplTraps = true)))
    ∧ (Cause.address ∈ s.pop.causes ↔
        (s.sp.getLsbD 0 = true ∨ s.dataImplemented (s.sp - 2#16).toNat = false))

/-- MOV.D (R159) loads a register pair and TBLRDx (R160) a register, with free values, and nothing else changes but
`pc`; the trap events of the two fetches of MOV.D set their flags, where no hard trap conflict resets the device, and the
instruction still completes (R91 to R95, R277); where a fetch meets a byte that nothing has written it stops (R75, D16).
Events of other agents that occur between the two fetches come between them, and a Reset among them ends the instruction
(R101, R300, D14). The free values, and the two working registers they go to, are log entries 34 and 35, the fault is log
entry 8, which events occur is log entry 14. -/
def Obligations.MovDAndTblrdLoadRegisters : Prop :=
  ∀ (s : State) (src : Operand) (dst : Fin 16), s.roomAfter 1 →
    (∀ extra, s.operandUnwritten src extra true = true ↔
        ((∃ r disp, src = .indirect r disp) ∨ ∃ ea, src = .direct ea)
          ∧ Cause.address ∉ s.operandReadCauses src extra true ∧ s.readWord (s.operandEa src extra) = none)
    ∧ (s.meanwhile = [] → s.operandUnwritten src 0 true = false → s.operandUnwritten src 2 true = false →
      (s.operandReadCauses src 0 true = [] → s.operandReadCauses src 2 true = [] →
        ∃ t, exec (.movD src dst) s = .next t
          ∧ (∀ i : Fin 16, i ≠ dst → i ≠ dst + 1 → t.reg i = s.reg i)
          ∧ t = { s with w := t.w, pc := s.pc + 2#24, draws := t.draws })
      ∧ (s.hardConflict .address = false →
        ∃ t, exec (.movD src dst) s = .next t
          ∧ (∀ i : Fin 16, i ≠ dst → i ≠ dst + 1 → t.reg i = s.reg i)
          ∧ (Cause.address ∈ s.operandReadCauses src 0 true ∨ Cause.address ∈ s.operandReadCauses src 2 true →
              t.trapPending .address = true)
          ∧ (Cause.stack ∈ s.operandReadCauses src 0 true ∨ Cause.stack ∈ s.operandReadCauses src 2 true →
              t.trapPending .stack = true)
          ∧ (∀ j, j ≠ 2 → j ≠ 3 → t.intcon1.getLsbD j = s.intcon1.getLsbD j)
          ∧ t = { s with w := t.w, pc := s.pc + 2#24, intcon1 := t.intcon1, draws := t.draws }))
    ∧ (∀ es rest, s.meanwhile = es :: rest → s.operandUnwritten src 0 true = false →
        s.operandReadCauses src 0 true = [] → s.operandReadCauses src 2 true = [] →
        (∀ u, happen es { s with meanwhile := rest } = .cut u → exec (.movD src dst) s = .next u)
        ∧ (∀ u, happen es { s with meanwhile := rest } = .go u →
            ((∃ r, src = .reg r) ∨ (∃ ea, src = .paged ea) ∨ u.readWord (s.operandEa src 2) ≠ none →
              ∃ t, exec (.movD src dst) s = .next t
                ∧ (∀ i : Fin 16, i ≠ dst → i ≠ dst + 1 → t.reg i = u.reg i)
                ∧ t = { u with w := t.w, pc := s.pc + 2#24, draws := t.draws })))
    ∧ (s.meanwhile = [] → s.hardConflict .address = false →
        s.operandUnwritten src 0 true = true ∨ s.operandUnwritten src 2 true = true →
        exec (.movD src dst) s = .fault .readOfUnwrittenMemory)
    ∧ (∃ v, exec (.tblrd dst) s = .next { s with w := s.w.set dst.val v, pc := s.pc + 2#24, draws := s.draws + 1 })

/-- BTSC and BTSS (R161): `pc` moves on by one instruction, or skips the next one as well when the bit has the value the
device skips on; nothing else changes but the flags of the trap events of the read (R162), where no hard trap conflict
resets the device. A value read through a page is free (R83), and so is one whose read raises the address error (U13);
where nothing has written the operand the model stops (D16). The sense is a parameter, and the length of a skip is DEDUCED
(log entry 36), the fault is log entry 8, the operand forms are log entry 4. -/
def Obligations.BitTestSkips : Prop :=
  ∀ (s : State) (i : Instr) (src : Operand) (bit : Fin 16) (skipsOn : Bool),
    ((i = .btsc src bit ∧ skipsOn = s.cfg.btscSkipsOn) ∨ (i = .btss src bit ∧ skipsOn = s.cfg.btssSkipsOn)) →
    s.roomAfter 3 →
    (s.operandReadCauses src 0 true = [] →
      (∀ v, (∀ ea, src ≠ .paged ea) → (s.fetchOperand src).value = some v →
        exec i s = .next { s with pc := if v.getLsbD bit.val = skipsOn then s.pc + BitVec.ofNat 24 (2 + 2 * s.wordsAfter)
                                        else s.pc + 2#24 })
      ∧ ((s.fetchOperand src).value = none → exec i s = .fault .readOfUnwrittenMemory)
      ∧ (∀ ea, src = .paged ea → ∃ a, exec i s = .next { s with pc := a, draws := s.draws + 1 }
          ∧ (a = s.pc + 2#24 ∨ a = s.pc + BitVec.ofNat 24 (2 + 2 * s.wordsAfter)))
      ∧ (∀ r, src = .reg r → (s.fetchOperand src).value = some (s.reg r))
      ∧ (∀ r disp, src = .indirect r disp →
          (s.fetchOperand src).value = s.readWord (BitVec.ofInt 16 ((s.reg r).toNat + disp)))
      ∧ (∀ ea, src = .direct ea → (s.fetchOperand src).value = s.readWord ea))
    ∧ (s.hardConflict .address = false → (s.fetchOperand src).value ≠ none →
      ∃ t, exec i s = .next t
        ∧ (t.pc = s.pc + 2#24 ∨ t.pc = s.pc + BitVec.ofNat 24 (2 + 2 * s.wordsAfter))
        ∧ (Cause.address ∈ s.operandReadCauses src 0 true → t.trapPending .address = true)
        ∧ (Cause.stack ∈ s.operandReadCauses src 0 true → t.trapPending .stack = true)
        ∧ (∀ j, j ≠ 2 → j ≠ 3 → t.intcon1.getLsbD j = s.intcon1.getLsbD j)
        ∧ t = { s with pc := t.pc, intcon1 := t.intcon1, draws := t.draws })

/-! ### Register access -/

/-- READ (R165, R98): the value of the register with its unimplemented bits 0, and no side effect. The implemented bits are
those of the tables of R26 (CORCON), R31, R41, R46 and R47 (INTCON1 to INTCON4), R55 (INTTREG) and R58 (DISICNT), and those of
the implemented sources in IFSx, IECx and IPCx (R50 to R54); the other registers have all 16. The value goes to the model's
own field readOut (log entry 40); which bit belongs to a source is log entry 43. -/
def Obligations.ReadHasNoSideEffect : Prop :=
  ∀ (s : State) (r : RegName), s.roomAfter 1 →
    ∃ m : Word, exec (.read r) s = .next { s with readOut := s.rawReg r &&& m, pc := s.pc + 2#24 }
      ∧ (match r with
        | .corcon => m = 0xBFFF#16
        | .intcon1 => m = 0xFFFE#16
        | .intcon2 => m = 0xE01F#16
        | .intcon3 => m = 0x0070#16
        | .intcon4 => m = 0x0001#16
        | .inttreg => m = 0x0FFF#16
        | .disicnt => m = 0x3FFF#16
        | .ifs x | .iec x => ∀ j, j < 16 → m.getLsbD j = s.cfg.irqImpl.getLsbD (16 * x.val + j)
        | .ipc x => ∀ j, j < 16 → (m.getLsbD j = true ↔ j % 4 ≠ 3 ∧ s.cfg.irqImpl.getLsbD (4 * x.val + j / 4) = true)
        | .w _ | .splim | .sr | .rcon | .osccon | .mstrpr | .dsrPage | .dswPage | .bdtp1 | .bdtp2 | .bdtp3 =>
          m = 0xFFFF#16)

/-- A software write to SR (R253, R23, R24): while NSTDIS = 1 it leaves bits 7 to 5 unchanged, a write of the field IPL<2:0>
as well, and it writes the other writable bits; CORCON.IPL3 can still be cleared. That SA, SB and SAB can only be cleared
and that the read-only bits keep is the model's reading of the access types of R23 (R7, log entry 31, a choice). What the boundary
after a write of IPL<2:0> may still see is the old SR, which kept the hard traps pending and not above the CPU level from
entry (R231, D6: log entry 17). -/
def Obligations.SRWriteRespectsNSTDIS : Prop :=
  ∀ (s : State) (v : Word), s.roomAfter 1 →
    (∃ t, exec (.write .sr v) s = .next t
      ∧ (∀ j, j < 4 → t.sr.getLsbD j = v.getLsbD j)
      ∧ (∀ j, j = 5 ∨ j = 6 ∨ j = 7 → t.sr.getLsbD j = if s.nstdis then s.sr.getLsbD j else v.getLsbD j)
      ∧ (∀ j, j = 10 ∨ j = 12 ∨ j = 13 → t.sr.getLsbD j = (s.sr.getLsbD j && v.getLsbD j))
      ∧ (∀ j, j = 4 ∨ j = 8 ∨ j = 9 ∨ j = 11 ∨ j = 14 ∨ j = 15 → t.sr.getLsbD j = s.sr.getLsbD j)
      ∧ t.lag = { s.lag with masks := if s.nstdis then s.lag.masks else .ipl s.sr s.hardHeld :: s.lag.masks }
      ∧ t = { s with sr := t.sr, pc := s.pc + 2#24, lag := t.lag })
    ∧ (∃ t, exec (.writeField .srIPL v) s = .next t ∧ t.ipl = (if s.nstdis then s.ipl else v.toNat % 8)
      ∧ (∀ j, j < 5 ∨ 8 ≤ j → t.sr.getLsbD j = s.sr.getLsbD j)
      ∧ t.lag = { s.lag with masks := if s.nstdis then s.lag.masks else .ipl s.sr s.hardHeld :: s.lag.masks }
      ∧ t = { s with sr := t.sr, pc := s.pc + 2#24, lag := t.lag })
    ∧ (∀ h, h ∈ s.hardHeld ↔ trapIsSoft h = false ∧ s.trapPending h = true ∧ s.trapLevel h ≤ s.cpuIpl)
    ∧ (∃ t, exec (.writeField .corconIPL3 0#16) s = .next t ∧ t.ipl3 = false
      ∧ (∀ j, j ≠ 3 → t.corcon.getLsbD j = s.corcon.getLsbD j)
      ∧ t = { s with corcon := t.corcon, pc := s.pc + 2#24 })

/-- A software write to CORCON (R26, R28, R30, R65, R212): IPL3 can be cleared and not set, SFA and DL are read-only, the R/W
bits take the value. -/
def Obligations.CORCONWriteCannotSetIPL3 : Prop :=
  ∀ (s : State) (v : Word), s.roomAfter 1 →
    ∃ t, exec (.write .corcon v) s = .next t ∧ t.ipl3 = (s.ipl3 && v.getLsbD 3) ∧ t.sfa = s.sfa
      ∧ t.doLevel = s.doLevel ∧ t.corcon.getLsbD 14 = s.corcon.getLsbD 14
      ∧ (∀ j, j < 2 ∨ (4 ≤ j ∧ j < 8) ∨ (11 ≤ j ∧ j < 14) ∨ j = 15 → t.corcon.getLsbD j = v.getLsbD j)
      ∧ t = { s with corcon := t.corcon, pc := s.pc + 2#24 }

/-- A software write of 1 to SWTRAP sets SGHT, so that the generic hard trap is pending (R44, R278), unless a hard trap
conflict resets the device (R272, D12: log entry 20); a write of 0 leaves SGHT as it was. -/
def Obligations.SWTRAPWriteRaisesGenericHardTrap : Prop :=
  ∀ s : State, s.roomAfter 1 →
    (∃ t, exec (.writeField .swtrap 1#16) s = .next t
      ∧ (s.hardConflict .genericHard = false →
        t.trapPending .genericHard = true ∧ t.intcon2 = s.intcon2 ||| 0x2000#16
        ∧ t = { s with intcon2 := t.intcon2, intcon4 := s.intcon4 ||| 0x0001#16, pc := s.pc + 2#24 })
      ∧ (s.hardConflict .genericHard = true → s.trapPending .genericHard = false →
        t.justReset ∧ t.rcon.getLsbD 15 = true))
    ∧ (∃ t, exec (.writeField .swtrap 0#16) s = .next t ∧ t.intcon4 = s.intcon4
        ∧ t.intcon2 = s.intcon2 &&& ~~~0x2000#16)

/-- WRITEFIELD changes only bits of the field it names in the register it names, whatever else it sets off: every other
register READ can name keeps its value but INTCON4 for SWTRAP, and the other bits of this one do, when no device Reset cut
it short (R165): that is the hard trap conflict of a write of 1 to OSCFAIL, ADDRERR, SGHT or SWTRAP, and sets TRAPR (R272). An R/W field holds the value written, an R/C bit is cleared by a 0 and not set by a 1, a read-only field
keeps (R7, R23, R26, R31, R41, R46, R47, R55, R60 to R62); each field lies at the bits the tables of spec/10_state.md give.
IPL<2:0> is O48's, the DISI bit O56's, the fields of a source O54's. The access types of RCON, OSCCON and MSTRPR are log
entry 32, clear-only and read-only bits log entry 31, that a write of 1 to OSCFAIL, ADDRERR or SGHT is a trap event is D10
(log entry 52), the conflict is D12 (log entry 20). -/
def Obligations.WriteFieldKeepsOtherBits : Prop :=
  ∀ (s t : State) (f : FieldName) (v : Word), exec (.writeField f v) s = .next t →
    (t.justReset ∧ t.rcon.getLsbD 15 = true ∧ v.getLsbD 0 = true
      ∧ ∃ h, ((f = .oscfail ∧ h = .oscillator) ∨ (f = .addrerr ∧ h = .address) ∨ ((f = .sght ∨ f = .swtrap) ∧ h = .genericHard))
          ∧ s.trapPending h = false ∧ s.hardConflict h = true) ∨
      ((∀ j, f.mask.getLsbD j = false → (t.rawReg f.reg).getLsbD j = (s.rawReg f.reg).getLsbD j)
        ∧ (∀ r, r ≠ f.reg → (f = .swtrap → r ≠ .intcon4) → t.rawReg r = s.rawReg r) ∧ t.mem = s.mem
        ∧ (∀ r low width, (f, r, low, width) ∈ storedFields →
            (t.rawReg r).extractLsb' low width = v.extractLsb' 0 width)
        ∧ (∀ r low, (f, r, low) ∈ clearableFields →
            (t.rawReg r).getLsbD low = ((s.rawReg r).getLsbD low && v.getLsbD 0))
        ∧ (∀ r low width, (f, r, low, width) ∈ readOnlyFields →
            (t.rawReg r).extractLsb' low width = (s.rawReg r).extractLsb' low width))

/-- A software write to INTCON1 (R31, R48, R261): bits 15 to 1 take the value and bit 0 stays; a hard trap flag written from 0
to 1 is a trap event and can be a hard trap conflict (R272), which resets the device, and nothing else does. That a
software write of 1 to OSCFAIL or ADDRERR is a trap event is the spec's own decision D10 (log entry 52, a choice); the
order of the two is free (R279, log entry 20). -/
def Obligations.INTCON1WriteStoresFlags : Prop :=
  ∀ (s : State) (v : Word), s.roomAfter 1 →
    ∃ t, exec (.write .intcon1 v) s = .next t
      ∧ ((t.justReset ∧ t.rcon.getLsbD 15 = true
            ∧ ((v.getLsbD 1 = true ∧ s.intcon1.getLsbD 1 = false ∧ s.hardConflict .oscillator = true)
              ∨ (v.getLsbD 3 = true ∧ s.intcon1.getLsbD 3 = false
                  ∧ (s.hardConflict .address = true ∨ v.getLsbD 1 = true))))
        ∨ (∃ n, t = { s with intcon1 := (s.intcon1 &&& 0x0001#16) ||| (v &&& 0xFFFE#16), pc := s.pc + 2#24, draws := n }))
      ∧ ((v.getLsbD 1 = true → s.intcon1.getLsbD 1 = true) → (v.getLsbD 3 = true → s.intcon1.getLsbD 3 = true) →
          t = { s with intcon1 := (s.intcon1 &&& 0x0001#16) ||| (v &&& 0xFFFE#16), pc := s.pc + 2#24 })
      ∧ (v.getLsbD 1 = false → v.getLsbD 3 = true → s.intcon1.getLsbD 3 = false → 13 < s.cpuIpl →
          t.justReset ∧ t.rcon.getLsbD 15 = true)

/-- Software writes to the registers of a source (R50 to R54, R165): a write of IFSx, IECx or IPCx stores the bits of
the implemented sources and no others. The mask write lag (R231, D6): the next boundary sees each mask register that the
instruction wrote, IECx, IPCx or SR.IPL<2:0>, new, or, with MASK_WRITE_LAG = 1, old or new; a step leaves an old value only by
running a write of that register, or an instruction during which a data write reaches it, and until the next boundary of the
running CPU. Which bit belongs to a source is log entry 43, the lag is log entry 17, registers in data space are log entry
33. -/
def Obligations.SourceWritesStore : Prop :=
  (∀ s : State,
    (s.cfg.maskWriteLag = false → s.maskView = (s, s))
    ∧ (s.cfg.maskWriteLag = true → s.maskView.2 = { s with draws := s.draws + s.lag.masks.length }
        ∧ ∃ old : List MaskOld, old.Sublist s.lag.masks ∧ s.maskView.1 = old.foldl State.withOldMask s)
    ∧ (∀ x old, s.withOldMask (.iec x old) = { s with iec := s.iec.set x.val old })
    ∧ (∀ x old, s.withOldMask (.ipc x old) = { s with ipc := s.ipc.set x.val old })
    ∧ (∀ old held, (s.withOldMask (.ipl old held)).ipl = (old.extractLsb' 5 3).toNat
        ∧ (∀ j, j < 5 ∨ 8 ≤ j → (s.withOldMask (.ipl old held)).sr.getLsbD j = s.sr.getLsbD j)
        ∧ s.withOldMask (.ipl old held) = { s with sr := (s.withOldMask (.ipl old held)).sr }))
  ∧ (∀ (s t : State) (m : MaskOld), step s = .next t → m ∈ t.lag.masks →
    (s.noBoundary ∧ ∃ m' ∈ s.lag.masks, m'.reg = m.reg)
      ∨ ∃ during s1, s.nextAction = (.run during, s1)
          ∧ ((∃ v, s1.fetch = .instr (.write m.reg v)) ∨ (∃ f v, s1.fetch = .instr (.writeField f v) ∧ f.reg = m.reg)
            ∨ s1.writesData (.run during) m.reg))
  ∧ ∀ (s : State) (v : Word), s.roomAfter 1 →
    (∀ x : Fin 16, ∃ t, exec (.write (.ifs x) v) s = .next t
      ∧ (∀ n, n < 246 → t.irqFlag n = if n / 16 = x.val ∧ s.cfg.irqImpl.getLsbD n = true then v.getLsbD (n % 16)
                                      else s.irqFlag n)
      ∧ t = { s with ifs := t.ifs, pc := s.pc + 2#24 })
    ∧ (∀ x : Fin 16, ∃ t, exec (.write (.iec x) v) s = .next t
      ∧ (∀ n, n < 246 → t.irqEnable n = if n / 16 = x.val ∧ s.cfg.irqImpl.getLsbD n = true then v.getLsbD (n % 16)
                                        else s.irqEnable n)
      ∧ t = { s with iec := t.iec, pc := s.pc + 2#24, lag := { s.lag with masks := .iec x s.iec[x] :: s.lag.masks } })
    ∧ (∀ x : Fin 62, ∃ t, exec (.write (.ipc x) v) s = .next t
      ∧ (∀ n, n < 246 → t.irqPriority n =
          if n / 4 = x.val ∧ s.cfg.irqImpl.getLsbD n = true then (v.extractLsb' (4 * (n % 4)) 3).toNat
          else s.irqPriority n)
      ∧ t = { s with ipc := t.ipc, pc := s.pc + 2#24, lag := { s.lag with masks := .ipc x s.ipc[x] :: s.lag.masks } })

/-- WRITEFIELD of one source's flag, enable or priority (R165, R54): that one takes the value, and no other source's
changes; the register written is one that the next boundary may see as it was (R231, D6: log entry 17). Which bit belongs to a
source is log entry 43. -/
def Obligations.SourceFieldWritesStore : Prop :=
  ∀ (s : State) (n : Irq) (v : Word), s.roomAfter 1 → s.cfg.irqImpl.getLsbD n.val = true →
    (∃ t, exec (.writeField (.ifsBit ⟨n.val / 16, by omega⟩ ⟨n.val % 16, by omega⟩) v) s = .next t
      ∧ (∀ m, t.irqFlag m = if m = n.val then v.getLsbD 0 else s.irqFlag m)
      ∧ t = { s with ifs := t.ifs, pc := s.pc + 2#24 })
    ∧ (∃ t, exec (.writeField (.iecBit ⟨n.val / 16, by omega⟩ ⟨n.val % 16, by omega⟩) v) s = .next t
      ∧ (∀ m, t.irqEnable m = if m = n.val then v.getLsbD 0 else s.irqEnable m)
      ∧ t = { s with iec := t.iec, pc := s.pc + 2#24
                     lag := { s.lag with masks := .iec ⟨n.val / 16, by omega⟩ s.iec[n.val / 16] :: s.lag.masks } })
    ∧ (∃ t, exec (.writeField (.ipcField ⟨n.val / 4, by omega⟩ ⟨n.val % 4, by omega⟩) v) s = .next t
      ∧ (∀ m, t.irqPriority m = if m = n.val then v.toNat % 8 else s.irqPriority m)
      ∧ t = { s with ipc := t.ipc, pc := s.pc + 2#24
                     lag := { s.lag with masks := .ipc ⟨n.val / 4, by omega⟩ s.ipc[n.val / 4] :: s.lag.masks } })

/-- Software writes of whole registers (R21, R22, R41 to R47, R55, R60 to R63, R70): a working register, RCON, OSCCON,
MSTRPR, the two pages and UxBDTP1 to UxBDTP3 store the value; SPLIM stores it and arms the check; INTCON3 stores its three
trap bits; INTTREG is read-only; INTCON2 stores GIE, SWTRAP and the edge polarities, keeps DISI, and a 1 to SWTRAP sets
SGHT; INTCON4 stores SGHT; a hard trap conflict of the last two resets the device (R272, D12: log entry 20). The access
of RCON, OSCCON, MSTRPR and the pages is log entry 32, the old GIE a boundary may see is D8 (log entry 18). -/
def Obligations.PlainRegisterWrites : Prop :=
  ∀ (s : State) (i : Fin 16) (v : Word), s.roomAfter 1 →
    exec (.write (.w i) v) s = .next { s with w := s.w.set i.val v, pc := s.pc + 2#24 }
    ∧ exec (.write .splim v) s = .next { s with splim := v, splimArmed := true, pc := s.pc + 2#24 }
    ∧ exec (.write .intcon3 v) s =
        .next { s with intcon3 := (s.intcon3 &&& ~~~0x0070#16) ||| (v &&& 0x0070#16), pc := s.pc + 2#24 }
    ∧ exec (.write .inttreg v) s = .next { s with pc := s.pc + 2#24 }
    ∧ exec (.write .rcon v) s = .next { s with rcon := v, pc := s.pc + 2#24 }
    ∧ exec (.write .osccon v) s = .next { s with osccon := v, pc := s.pc + 2#24 }
    ∧ exec (.write .mstrpr v) s = .next { s with mstrpr := v, pc := s.pc + 2#24 }
    ∧ exec (.write .dsrPage v) s = .next { s with dsrPage := v, pc := s.pc + 2#24 }
    ∧ exec (.write .dswPage v) s = .next { s with dswPage := v, pc := s.pc + 2#24 }
    ∧ exec (.write .bdtp1 v) s = .next { s with bdtp1 := v, pc := s.pc + 2#24 }
    ∧ exec (.write .bdtp2 v) s = .next { s with bdtp2 := v, pc := s.pc + 2#24 }
    ∧ exec (.write .bdtp3 v) s = .next { s with bdtp3 := v, pc := s.pc + 2#24 }
    ∧ (v.getLsbD 14 = s.disiBit → (v.getLsbD 13 = true → s.hardConflict .genericHard = false) →
        exec (.write .intcon2 v) s = .next
          { s with intcon2 := (s.intcon2 &&& ~~~0xA01F#16) ||| (v &&& 0xA01F#16)
                   intcon4 := if v.getLsbD 13 then s.intcon4 ||| 0x0001#16 else s.intcon4
                   lag := { s.lag with gie := if v.getLsbD 15 = s.gie then s.lag.gie else some (s.lag.gie.getD s.gie) }
                   pc := s.pc + 2#24 })
    ∧ (v.getLsbD 14 = s.disiBit → v.getLsbD 13 = true → s.trapPending .genericHard = false →
        s.hardConflict .genericHard = true →
        ∃ t, exec (.write .intcon2 v) s = .next t ∧ t.justReset ∧ t.rcon.getLsbD 15 = true)
    ∧ ((v.getLsbD 0 = true → s.trapPending .genericHard = false → s.hardConflict .genericHard = false) →
        exec (.write .intcon4 v) s =
          .next { s with intcon4 := (s.intcon4 &&& ~~~0x0001#16) ||| (v &&& 0x0001#16), pc := s.pc + 2#24 })
    ∧ (v.getLsbD 0 = true → s.trapPending .genericHard = false → s.hardConflict .genericHard = true →
        ∃ t, exec (.write .intcon4 v) s = .next t ∧ t.justReset ∧ t.rcon.getLsbD 15 = true)

/-- Every WRITE and WRITEFIELD completes but one that would change the status bit INTCON2.DISI, which is refused
(R165, R43, U6). The refusal is the spec's U6 (log entry 29). -/
def Obligations.WritesComplete : Prop :=
  ∀ (s : State) (r : RegName) (f : FieldName) (v : Word),
    (r = .intcon2 ∧ v.getLsbD 14 ≠ s.disiBit → exec (.write r v) s = .refused .writeOfDisiBit)
    ∧ (¬ (r = .intcon2 ∧ v.getLsbD 14 ≠ s.disiBit) → ∃ t, exec (.write r v) s = .next t)
    ∧ (f = .disi ∧ v.getLsbD 0 ≠ s.disiBit → exec (.writeField f v) s = .refused .writeOfDisiBit)
    ∧ (¬ (f = .disi ∧ v.getLsbD 0 ≠ s.disiBit) → ∃ t, exec (.writeField f v) s = .next t)

/-! ### The other agents -/

/-- A flag is set by its peripheral, whichever source it is; and by an edge of the selected polarity on an external interrupt
pin, whose other edge does nothing (R51, R200, R283). -/
def Obligations.ExternalEdgeSetsFlag : Prop :=
  ∀ (s : State) (n : Irq), s.cfg.irqImpl.getLsbD n.val = true →
    ∃ t, Event.apply (.irq n) s = .go t
      ∧ t.irqFlag n.val = true ∧ (∀ m, m < 246 → m ≠ n.val → t.irqFlag m = s.irqFlag m) ∧ t = { s with ifs := t.ifs }
      ∧ ∀ k : Fin 5, s.cfg.intIrq[k] = n →
          Event.apply (.extEdge k .rising) s = .go (if s.intcon2.getLsbD k.val then s else t)
          ∧ Event.apply (.extEdge k .falling) s = .go (if s.intcon2.getLsbD k.val then t else s)

/-- The trap events of instructions outside the table. Accumulator overflows (R164, R266): the detail flag and MATHERR are
set when the cause's enable is 1 and saturation does not rule the event out, no flag otherwise. MAC-class operand fetches
(R82, R163): an address that is not implemented in its space, or an odd one, raises the address error. A data read (R91 to
R95, R162): a stack error sets STKERR and an address error sets ADDRERR, where it makes no hard trap conflict, and the
instruction completes; a conflict resets the device; a byte that nothing has written stops it (D16). Which bits of CORCON
select saturation is PRESUMED (log entry 12); these instructions, the free accumulator, and the word width of a MAC fetch are
log entry 13, the fault is log entry 8. -/
def Obligations.OutsideInstructionsRaiseTraps : Prop :=
  (∀ s : State, s.roomAfter 1 → s.cfg.hasDsp = true →
    (∃ t, execOutside [.accOverflow .a] s = .next t
      ∧ t.intcon1 = (if s.saturates31 .a = false ∧ s.intcon1.getLsbD 10 = true then s.intcon1 ||| 0x4010#16 else s.intcon1)
      ∧ t = { s with accA := t.accA, sr := t.sr, intcon1 := t.intcon1, pc := s.pc + 2#24, draws := t.draws })
    ∧ (∃ t, execOutside [.accOverflow .b] s = .next t
      ∧ t.intcon1 = (if s.saturates31 .b = false ∧ s.intcon1.getLsbD 9 = true then s.intcon1 ||| 0x2010#16 else s.intcon1)
      ∧ t = { s with accB := t.accB, sr := t.sr, intcon1 := t.intcon1, pc := s.pc + 2#24, draws := t.draws })
    ∧ (∃ t, execOutside [.accCatastrophic .a] s = .next t
      ∧ t.intcon1 = (if s.saturates .a = false ∧ s.intcon1.getLsbD 8 = true then s.intcon1 ||| 0x1010#16 else s.intcon1)
      ∧ t = { s with accA := t.accA, sr := t.sr, intcon1 := t.intcon1, pc := s.pc + 2#24, draws := t.draws })
    ∧ (∃ t, execOutside [.accCatastrophic .b] s = .next t
      ∧ t.intcon1 = (if s.saturates .b = false ∧ s.intcon1.getLsbD 8 = true then s.intcon1 ||| 0x0810#16 else s.intcon1)
      ∧ t = { s with accB := t.accB, sr := t.sr, intcon1 := t.intcon1, pc := s.pc + 2#24, draws := t.draws }))
  ∧ (∀ (s : State) (space : DataSpace) (ea : Word), s.roomAfter 1 → s.hardConflict .address = false →
      (ea.getLsbD 0 = true ∨ s.dataImplementedIn space ea.toNat = false) →
      execOutside [.macFetch space ea] s = .next { s with intcon1 := s.intcon1 ||| 0x0008#16, pc := s.pc + 2#24 })
  ∧ (∀ (s : State) (space : DataSpace) (ea : Word), s.roomAfter 1 → ea.getLsbD 0 = false →
      s.dataImplementedIn space ea.toNat = true →
      execOutside [.macFetch space ea] s =
        if s.readWord ea = none then .fault .readOfUnwrittenMemory else .next { s with pc := s.pc + 2#24 })
  ∧ (∀ (s : State) (src : Operand) (wide : Bool), s.roomAfter 1 →
      ((Cause.address ∈ s.operandReadCauses src 0 wide → s.hardConflict .address = false) →
        execOutside [.read src wide] s =
          if s.operandUnwritten src 0 wide then .fault .readOfUnwrittenMemory
          else .next { s with pc := s.pc + 2#24
                              intcon1 := s.intcon1
                                ||| (if Cause.stack ∈ s.operandReadCauses src 0 wide then 0x0004#16 else 0#16)
                                ||| (if Cause.address ∈ s.operandReadCauses src 0 wide then 0x0008#16 else 0#16) })
      ∧ (Cause.address ∈ s.operandReadCauses src 0 wide → s.trapPending .address = false → s.hardConflict .address = true →
        ∃ t, execOutside [.read src wide] s = .next t ∧ t.justReset ∧ t.rcon.getLsbD 15 = true))

/-- The other agents (R65, R98, R100, R269, R273, R274, R276, R300): a DMA write that collides is lost and sets DMACERR, one to
unimplemented memory sets DAE, one to implemented memory writes its byte, or both bytes of its word in one event (D14), and
one at the address of a register writes that register, or its low or high byte; an access of the USB module outside
implemented memory sets UAE and one inside changes nothing; an oscillator failure sets OSCFAIL and CF, or resets the device on
a hard trap conflict; a device without DMA, or without USB, has none of its events. The end of a DO loop takes one from DL,
and DA becomes 0 with the last, while the CPU runs. An external Reset resets the device, its memories and TRAPR as they were.
The address of the USB table is log entry 28, the DMA events are log entry 45, registers in data space log entry 33, the byte
order log entry 22, the place of CF log entry 32, absent units log entry 46, the end of a DO loop log entry 10. -/
def Obligations.OutsideAgentsRaiseTraps : Prop :=
  ∀ (s : State) (ea : Word) (v : Byte) (half : BitVec 15) (u : Word) (off : Fin 512),
    (s.cfg.hasDma = true →
      Event.apply .dmaCollision s = .go { s with intcon1 := s.intcon1 ||| 0x0020#16 }
      ∧ Event.apply .dmaAddrErr s = .go { s with intcon3 := s.intcon3 ||| 0x0020#16 }
      ∧ (s.dataImplemented ea.toNat = false →
          Event.apply (.dmaByte ea v) s = .go { s with intcon3 := s.intcon3 ||| 0x0020#16 })
      ∧ (s.dataImplemented (2 * half.toNat) = false →
          Event.apply (.dmaWord half u) s = .go { s with intcon3 := s.intcon3 ||| 0x0020#16 })
      ∧ (s.dataImplemented ea.toNat = true → s.registerAt ea.toNat = none →
          Event.apply (.dmaByte ea v) s = .go { s with mem := cellSet s.mem ea.toNat v })
      ∧ (s.dataImplemented (2 * half.toNat) = true → s.registerAt (2 * half.toNat) = none →
          Event.apply (.dmaWord half u) s =
            .go { s with mem := cellSet (cellSet s.mem (2 * half.toNat) (u.extractLsb' 0 8)) (2 * half.toNat + 1)
                                  (u.extractLsb' 8 8) })
      ∧ (∀ r, s.registerAt (2 * half.toNat) = some r →
          Event.apply (.dmaWord half u) s =
            (s.writeReg r 0xFFFF#16 u).bind fun t => .go { t with lag := s.lag }.dropCleared)
      ∧ (∀ r, s.registerAt ea.toNat = some r →
          Event.apply (.dmaByte ea v) s =
            (if ea.getLsbD 0 then s.writeReg r 0xFF00#16 (v.zeroExtend 16 <<< 8)
              else s.writeReg r 0x00FF#16 (v.zeroExtend 16)).bind fun t => .go { t with lag := s.lag }.dropCleared))
    ∧ (s.cfg.hasUsb = true →
        s.dataImplemented ((Config.bdtAddress s.bdtp1 s.bdtp2 s.bdtp3).toNat + off.val) = false →
        Event.apply (.usbAccess off) s = .go { s with intcon3 := s.intcon3 ||| 0x0040#16 })
    ∧ (s.cfg.hasUsb = false ∨ s.dataImplemented ((Config.bdtAddress s.bdtp1 s.bdtp2 s.bdtp3).toNat + off.val) = true →
        Event.apply (.usbAccess off) s = .go s)
    ∧ (s.hardConflict .oscillator = false → Event.apply .oscFail s =
        .go { s with intcon1 := s.intcon1 ||| 0x0002#16, osccon := s.osccon ||| 0x0008#16 })
    ∧ (s.trapPending .oscillator = false → s.hardConflict .oscillator = true →
        ∃ t, Event.apply .oscFail s = .cut t ∧ t.justReset ∧ t.rcon.getLsbD 15 = true)
    ∧ (s.cfg.hasDma = false → Event.apply .dmaCollision s = .go s ∧ Event.apply (.dmaByte ea v) s = .go s
        ∧ Event.apply (.dmaWord half u) s = .go s ∧ Event.apply .dmaAddrErr s = .go s)
    ∧ (s.power ≠ .run ∨ s.doLevel = 0 → Event.apply .doLoopEnd s = .go s)
    ∧ (s.power = .run → s.doLevel ≠ 0 →
        ∃ t, Event.apply .doLoopEnd s = .go t ∧ t.doLevel = s.doLevel - 1
          ∧ t.sr.getLsbD 9 = (if s.doLevel = 1 then false else s.sr.getLsbD 9)
          ∧ (∀ j, j ≠ 9 → t.sr.getLsbD j = s.sr.getLsbD j)
          ∧ (∀ j, j < 8 ∨ 11 ≤ j → t.corcon.getLsbD j = s.corcon.getLsbD j)
          ∧ t = { s with sr := t.sr, corcon := t.corcon })
    ∧ (∃ t, Event.apply .externalReset s = .cut t ∧ t.justReset ∧ t.rcon.getLsbD 15 = s.rcon.getLsbD 15
        ∧ t.pc = s.resetLocation &&& 0x7FFFFE#24 ∧ t.mem = s.mem ∧ t.prog = s.prog ∧ t.cfg = s.cfg)

/-- Data writes of instructions outside the table and of the entry sequence (R91, R92, R95, R98, R277). One that raises no
address error stores its byte, or the two bytes of its word, low byte first, and leaves every other byte as it was, a stack
error or not; in unimplemented memory it stores nothing; at the address of a register it is a software write of that
register, or of its low or high byte. Events of other agents that occur between two writes of one instruction come between
them, and a Reset among them leaves the second undone (R101, R300, D14). An instruction one of whose accesses raises the
address error, and an entry through an odd Stack Pointer, change no memory and leave the trap pending, or reset the device with TRAPR
= 1 exactly where the trap was not pending and its event is a hard trap conflict (R272). The byte order is D13 of R89 (log entry 22), that a whole entry is inhibited is log entry 25, a
write to unimplemented memory log entry 44, registers in data space log entry 33, a write to a working register's low byte
log entry 4, the instructions themselves log entry 13, which events occur log entry 14. -/
def Obligations.DataWritesFollowAccessChecks : Prop :=
  (∀ (s : State) (dst : Operand) (wide : Bool) (v : Word), s.roomAfter 1 →
      ((∃ i disp, dst = .indirect i disp) ∨ ∃ ea, dst = .direct ea) →
      Cause.address ∉ s.operandWriteCauses dst wide →
      (Memory.wf s.mem = true → s.dataImplemented (s.operandEa dst 0).toNat = true →
        s.registerAt (s.operandEa dst 0).toNat = none →
        ∃ t, execOutside [.write dst wide v] s = .next t
          ∧ (∀ a, t.readByte a = if a = (s.operandEa dst 0).toNat then some (v.extractLsb' 0 8)
                else if wide = true ∧ a = (s.operandEa dst 0).toNat + 1 then some (v.extractLsb' 8 8) else s.readByte a)
          ∧ t = { s with mem := t.mem, pc := s.pc + 2#24
                         intcon1 := if Cause.stack ∈ s.operandWriteCauses dst wide then s.intcon1 ||| 0x0004#16
                                    else s.intcon1 })
      ∧ (s.dataImplemented (s.operandEa dst 0).toNat = false →
        execOutside [.write dst wide v] s = .next
          { s with pc := s.pc + 2#24
                   intcon1 := if Cause.stack ∈ s.operandWriteCauses dst wide then s.intcon1 ||| 0x0004#16
                              else s.intcon1 })
      ∧ (∀ r t, wide = true → s.registerAt (s.operandEa dst 0).toNat = some r → s.operandWriteCauses dst wide = [] →
        exec (.write r v) s = .next t → execOutside [.write dst wide v] s = .next t.dropCleared)
      ∧ (∀ r mask w, wide = false → s.registerAt (s.operandEa dst 0).toNat = some r →
        s.operandWriteCauses dst wide = [] →
        mask = (if (s.operandEa dst 0).getLsbD 0 then 0xFF00#16 else 0x00FF#16) →
        w = (if (s.operandEa dst 0).getLsbD 0 then v <<< 8 else v) →
        (∀ u, s.writeReg r mask w = .go u →
          execOutside [.write dst wide v] s = .next { u.dropCleared with pc := s.pc + 2#24 }
            ∧ (r ≠ .disicnt → ∀ j, mask.getLsbD j = false → (u.rawReg r).getLsbD j = (s.rawReg r).getLsbD j))
        ∧ (∀ u, s.writeReg r mask w = .cut u → execOutside [.write dst wide v] s = .next u)))
  ∧ (∀ (s : State) (i : Fin 16) (wide : Bool) (v : Word), s.roomAfter 1 →
      execOutside [.write (.reg i) wide v] s = .next
        { s with w := s.w.set i.val (if wide then v else (s.reg i &&& 0xFF00#16) ||| (v &&& 0x00FF#16)), pc := s.pc + 2#24 })
  ∧ (∀ (s t : State) (a1 a2 : Word) (wide1 wide2 : Bool) (v1 v2 : Word) (es : List Event) (rest : List (List Event)),
      s.roomAfter 1 → s.meanwhile = es :: rest → s.registerAt a1.toNat = none →
      s.operandWriteCauses (.direct a1) wide1 = [] → s.operandWriteCauses (.direct a2) wide2 = [] →
      execOutside [.write (.direct a1) wide1 v1] s = .next t →
      (∀ u, happen es { s with mem := t.mem, meanwhile := rest } = .cut u →
        execOutside [.write (.direct a1) wide1 v1, .write (.direct a2) wide2 v2] s = .next u)
      ∧ (∀ u, happen es { s with mem := t.mem, meanwhile := rest } = .go u →
        execOutside [.write (.direct a1) wide1 v1, .write (.direct a2) wide2 v2] s =
          execOutside [.write (.direct a2) wide2 v2] u))
  ∧ (∀ (s t : State) (acts : List CpuAct), s.meanwhile = [] → Cause.address ∈ acts.flatMap (CpuAct.causes s) →
      execOutside acts s = .next t →
      t.mem = s.mem
      ∧ ((s.trapPending .address = false ∧ s.hardConflict .address = true ∧ t.justReset ∧ t.rcon.getLsbD 15 = true)
        ∨ ((s.trapPending .address = true ∨ s.hardConflict .address = false) ∧ t.trapPending .address = true
          ∧ t = { s with w := t.w, sr := t.sr, accA := t.accA, accB := t.accB, intcon1 := t.intcon1, pc := t.pc,
                         draws := t.draws })))
  ∧ (∀ (s t : State) (src : Source) (level : Nat), s.sp.getLsbD 0 = true → enterException src level s = .next t →
      t.mem = s.mem
      ∧ ((s.trapPending .address = false ∧ s.hardConflict .address = true ∧ t.justReset ∧ t.rcon.getLsbD 15 = true)
        ∨ ((s.trapPending .address = true ∨ s.hardConflict .address = false) ∧ t.trapPending .address = true)))
end

