-- ==== Sys2Proof/Laws/Memory.lean ====
section
/-! SUPPORT. The two memories: a read after a write, and that every memory operation keeps the canonical form. -/

namespace Sys2Proof.Machine

section Cells

variable {β : Type}

theorem cellGet_cellSet (m : List (Nat × β)) (a b : Nat) (v : β) (hm : cellsRise m = true) :
    cellGet (cellSet m a v) b = if b = a then some v else cellGet m b := by
  induction m with
  | nil => simp [cellSet, cellGet, eq_comm]
  | cons c m ih =>
    obtain ⟨k, u⟩ := c
    have hm' : cellsRise m = true := by simp [cellsRise] at hm; exact hm.2
    by_cases h1 : a < k
    · by_cases h : b = a
      · subst h; simp [cellSet, cellGet, h1]
      · have h' : ¬ a = b := fun e => h e.symm
        simp [cellSet, cellGet, h1, h, h']
    · by_cases h2 : a = k
      · subst h2
        by_cases h : b = a
        · subst h; simp [cellSet, cellGet]
        · have h' : ¬ a = b := fun e => h e.symm
          simp [cellSet, cellGet, h, h']
      · by_cases h3 : k = b
        · subst h3
          have : ¬ k = a := fun e => h2 e.symm
          simp [cellSet, cellGet, h1, h2, this]
        · simp [cellSet, cellGet, h1, h2, h3, ih hm']

theorem cellsRise_cons (c : Nat × β) (m : List (Nat × β)) :
    cellsRise (c :: m) = true ↔ (∀ d ∈ m, c.1 < d.1) ∧ cellsRise m = true := by
  obtain ⟨k, u⟩ := c
  simp [cellsRise]

theorem mem_cellSet (m : List (Nat × β)) (a : Nat) (v : β) (d : Nat × β) (hd : d ∈ cellSet m a v) :
    d = (a, v) ∨ d ∈ m := by
  induction m with
  | nil => simpa [cellSet] using hd
  | cons c m ih =>
    obtain ⟨k, u⟩ := c
    unfold cellSet at hd
    split at hd
    · simpa using hd
    · split at hd
      · rcases List.mem_cons.mp hd with h | h
        · exact .inl h
        · exact .inr (List.mem_cons_of_mem _ h)
      · rcases List.mem_cons.mp hd with h | h
        · exact .inr (h ▸ List.mem_cons_self)
        · exact (ih h).imp id (List.mem_cons_of_mem _)

theorem cellsRise_cellSet (m : List (Nat × β)) (a : Nat) (v : β) (hm : cellsRise m = true) :
    cellsRise (cellSet m a v) = true := by
  induction m with
  | nil => simp [cellSet, cellsRise]
  | cons c m ih =>
    obtain ⟨k, u⟩ := c
    obtain ⟨hk, hm'⟩ := (cellsRise_cons _ _).mp hm
    unfold cellSet
    split
    · rename_i h
      refine (cellsRise_cons _ _).mpr ⟨?_, hm⟩
      intro d hd
      rcases List.mem_cons.mp hd with rfl | hd
      · exact h
      · exact Nat.lt_trans h (hk d hd)
    · split
      · rename_i h
        subst h
        exact (cellsRise_cons _ _).mpr ⟨hk, hm'⟩
      · rename_i h1 h2
        refine (cellsRise_cons _ _).mpr ⟨?_, ih hm'⟩
        intro d hd
        rcases mem_cellSet m a v d hd with rfl | hd
        · show k < a
          omega
        · exact hk d hd

end Cells

/-! ### Data memory keeps its canonical form -/

theorem Memory.wf_iff (m : List Host.Cell) :
    Memory.wf m = true ↔ cellsRise m = true ∧ ∀ c ∈ m, c.1 < 0x10000 := by
  simp [Memory.wf]

theorem Memory.wf_cellSet (m : List Host.Cell) (a : Nat) (v : Byte) (hm : Memory.wf m = true) (ha : a < 0x10000) :
    Memory.wf (cellSet m a v) = true := by
  rw [Memory.wf_iff] at hm ⊢
  refine ⟨cellsRise_cellSet m a v hm.1, fun c hc => ?_⟩
  rcases mem_cellSet m a v c hc with rfl | hc
  · exact ha
  · exact hm.2 c hc

theorem State.writeByte_wf (s : State) (a : Nat) (v : Byte) (h : Memory.wf s.mem = true) (ha : a < 0x10000) :
    Memory.wf (s.writeByte a v).mem = true := Memory.wf_cellSet _ _ _ h ha

/-- The byte after the one at an even address lies in data space. -/
theorem even_succ_lt (ea : Word) (he : ea.getLsbD 0 = false) : ea.toNat + 1 < 0x10000 := by
  have h := ea.isLt
  have h0 : ea.toNat % 2 = 0 := by
    rw [BitVec.getLsbD, Nat.testBit_zero] at he
    simpa using he
  omega

theorem State.writeWord_wf (s : State) (ea v : Word) (h : Memory.wf s.mem = true) (he : ea.getLsbD 0 = false) :
    Memory.wf (s.writeWord ea v).mem = true := by
  unfold State.writeWord
  exact State.writeByte_wf _ _ _ (State.writeByte_wf _ _ _ h (by have := even_succ_lt ea he; omega)) (even_succ_lt ea he)

theorem State.store_wf (s : State) (ea : Word) (wide : Bool) (v : Word) (h : Memory.wf s.mem = true)
    (he : wide = true → ea.getLsbD 0 = false) : Memory.wf (s.store ea wide v).mem = true := by
  unfold State.store
  split
  · split
    · rename_i hw
      exact State.writeWord_wf s ea v h (he hw)
    · exact State.writeByte_wf s _ _ h ea.isLt
  · exact h

/-- Reset leaves an empty, canonical memory. -/
theorem reset_mem_wf : Memory.wf State.reset.mem = true := by decide

/-! ### Registers in data space -/

/-- Which register lies at an address is the device's alone. -/
theorem State.registerAt_of_cfg (s t : State) (a : Nat) (h : t.cfg = s.cfg) : t.registerAt a = s.registerAt a := by
  unfold State.registerAt; rw [h]

theorem State.dataImplemented_of_cfg (s t : State) (a : Nat) (h : t.cfg = s.cfg) :
    t.dataImplemented a = s.dataImplemented a := by
  unfold State.dataImplemented; rw [State.registerAt_of_cfg s t a h, h]

/-- Where no register lies, data space is data memory (R81). -/
theorem State.readWord_of_memory (s : State) (ea : Word) (h : s.registerAt ea.toNat = none) :
    s.readWord ea = s.memWord ea := by unfold State.readWord; rw [h]

/-- Where a register lies, data space is that register (R81, R98). -/
theorem State.readWord_of_register (s : State) (ea : Word) (r : RegName) (h : s.registerAt ea.toNat = some r) :
    s.readWord ea = some (s.readReg r) := by unfold State.readWord; rw [h]

/-- Where no register lies, a data write is a write to memory. -/
theorem State.dataWrite_of_memory (s : State) (ea : Word) (wide : Bool) (v : Word) (h : s.registerAt ea.toNat = none)
    (earlier : Earlier := .none) : s.dataWrite ea wide v earlier = .go (s.store ea wide v) := by unfold State.dataWrite; rw [h]

/-- A word write in implemented data memory writes its two bytes. -/
theorem State.dataWrite_word (s : State) (ea v : Word) (hi : s.dataImplemented ea.toNat = true)
    (h : s.registerAt ea.toNat = none) (earlier : Earlier := .none) :
    s.dataWrite ea true v earlier = .go (s.writeWord ea v) := by
  rw [State.dataWrite_of_memory _ _ _ _ h _, State.store, if_pos hi]; rfl

/-- A word write at the address of a register is a software write of that register. -/
theorem State.dataWrite_of_register (s : State) (ea v : Word) (r : RegName) (h : s.registerAt ea.toNat = some r)
    (earlier : Earlier := .none) :
    s.dataWrite ea true v earlier = (s.writeReg r 0xFFFF#16 v earlier).bind fun s1 => .go s1.dropCleared := by
  unfold State.dataWrite; rw [h]; rfl

/-! ### Reads after writes -/

theorem State.readByte_writeByte (s : State) (a b : Nat) (v : Byte) (h : Memory.wf s.mem = true) :
    (s.writeByte a v).readByte b = if b = a then some v else s.readByte b :=
  cellGet_cellSet s.mem a b v ((Memory.wf_iff _).mp h).1

/-- A word write reads back at its two bytes and nowhere else. -/
theorem State.readByte_writeWord (s : State) (ea v : Word) (b : Nat) (h : Memory.wf s.mem = true)
    (he : ea.getLsbD 0 = false) :
    (s.writeWord ea v).readByte b =
      if b = ea.toNat then some (v.extractLsb' 0 8)
      else if b = ea.toNat + 1 then some (v.extractLsb' 8 8) else s.readByte b := by
  have h1 := even_succ_lt ea he
  unfold State.writeWord
  rw [State.readByte_writeByte _ _ _ _ (State.writeByte_wf _ _ _ h (by omega)), State.readByte_writeByte _ _ _ _ h]
  by_cases hb : b = ea.toNat
  · have : ¬ b = ea.toNat + 1 := by omega
    simp [hb]
  · simp [hb]

theorem State.memWord_writeWord_same (s : State) (ea v : Word) (h : Memory.wf s.mem = true)
    (he : ea.getLsbD 0 = false) : (s.writeWord ea v).memWord ea = some v := by
  unfold State.memWord
  rw [State.readByte_writeWord s ea v _ h he, State.readByte_writeWord s ea v _ h he]
  have : ¬ ea.toNat + 1 = ea.toNat := by omega
  simp only [this, if_true, if_false]
  rw [Option.some.injEq]
  apply BitVec.eq_of_getLsbD_eq
  intro i hi
  rw [BitVec.getLsbD_append]
  by_cases h8 : i < 8
  · simp [h8]
  · simp [h8]
    have : 8 + (i - 8) = i := by omega
    rw [this]
    simp; omega

theorem State.memWord_writeWord_other (s : State) (ea eb v : Word) (h : Memory.wf s.mem = true)
    (he : ea.getLsbD 0 = false) (hb : eb.getLsbD 0 = false) (hne : eb ≠ ea) :
    (s.writeWord ea v).memWord eb = s.memWord eb := by
  have hparity (x : Word) (hx : x.getLsbD 0 = false) : x.toNat % 2 = 0 := by
    rw [BitVec.getLsbD, Nat.testBit_zero] at hx
    simpa using hx
  have h1 := hparity ea he
  have h2 := hparity eb hb
  have h3 : eb.toNat ≠ ea.toNat := fun e => hne (BitVec.eq_of_toNat_eq e)
  unfold State.memWord
  rw [State.readByte_writeWord s ea v _ h he, State.readByte_writeWord s ea v _ h he]
  have a1 : ¬ eb.toNat = ea.toNat + 1 := by omega
  have a2 : ¬ eb.toNat + 1 = ea.toNat := by omega
  have a3 : ¬ eb.toNat + 1 = ea.toNat + 1 := by omega
  simp only [h3, a1, a2, a3, if_false]

end Sys2Proof.Machine
end

