-- ==== Sys2Proof/Laws/State.lean ====
section
/-! SUPPORT. One frame lemma per update of State (every field an update leaves alone, true by unfolding the record), and
what the updated field holds, so that no later proof unfolds a record update. -/

namespace Sys2Proof.Machine

/-- `setPc` changes only pc. -/
@[simp] theorem State.setPc_frame (s : State) (a : PAddr) :
    (s.setPc a).cfg = s.cfg ∧ (s.setPc a).w = s.w ∧ (s.setPc a).splim = s.splim ∧
    (s.setPc a).splimArmed = s.splimArmed ∧ (s.setPc a).sr = s.sr ∧ (s.setPc a).corcon = s.corcon ∧
    (s.setPc a).intcon1 = s.intcon1 ∧ (s.setPc a).intcon2 = s.intcon2 ∧ (s.setPc a).intcon3 = s.intcon3 ∧
    (s.setPc a).intcon4 = s.intcon4 ∧ (s.setPc a).ifs = s.ifs ∧ (s.setPc a).iec = s.iec ∧ (s.setPc a).ipc = s.ipc ∧
    (s.setPc a).inttreg = s.inttreg ∧ (s.setPc a).disicnt = s.disicnt ∧ (s.setPc a).rcon = s.rcon ∧
    (s.setPc a).osccon = s.osccon ∧ (s.setPc a).mstrpr = s.mstrpr ∧ (s.setPc a).dsrPage = s.dsrPage ∧
    (s.setPc a).dswPage = s.dswPage ∧ (s.setPc a).bdtp1 = s.bdtp1 ∧ (s.setPc a).bdtp2 = s.bdtp2 ∧
    (s.setPc a).bdtp3 = s.bdtp3 ∧ (s.setPc a).accA = s.accA ∧ (s.setPc a).accB = s.accB ∧
    (s.setPc a).doStack = s.doStack ∧ (s.setPc a).rpt = s.rpt ∧ (s.setPc a).gieSeen = s.gieSeen ∧
    (s.setPc a).lag = s.lag ∧ (s.setPc a).power = s.power ∧ (s.setPc a).skid = s.skid ∧ (s.setPc a).mem = s.mem ∧
    (s.setPc a).prog = s.prog ∧ (s.setPc a).agenda = s.agenda ∧ (s.setPc a).meanwhile = s.meanwhile ∧
    (s.setPc a).readOut = s.readOut ∧ (s.setPc a).draws = s.draws :=
    ⟨rfl, rfl, rfl, rfl, rfl, rfl, rfl, rfl, rfl, rfl, rfl, rfl, rfl, rfl, rfl, rfl, rfl, rfl, rfl, rfl, rfl, rfl,
    rfl, rfl, rfl, rfl, rfl, rfl, rfl, rfl, rfl, rfl, rfl, rfl, rfl, rfl, rfl⟩

/-- `setReg` changes only w. -/
@[simp] theorem State.setReg_frame (s : State) (i : Fin 16) (v : Word) :
    (s.setReg i v).cfg = s.cfg ∧ (s.setReg i v).pc = s.pc ∧ (s.setReg i v).splim = s.splim ∧
    (s.setReg i v).splimArmed = s.splimArmed ∧ (s.setReg i v).sr = s.sr ∧ (s.setReg i v).corcon = s.corcon ∧
    (s.setReg i v).intcon1 = s.intcon1 ∧ (s.setReg i v).intcon2 = s.intcon2 ∧ (s.setReg i v).intcon3 = s.intcon3 ∧
    (s.setReg i v).intcon4 = s.intcon4 ∧ (s.setReg i v).ifs = s.ifs ∧ (s.setReg i v).iec = s.iec ∧
    (s.setReg i v).ipc = s.ipc ∧ (s.setReg i v).inttreg = s.inttreg ∧ (s.setReg i v).disicnt = s.disicnt ∧
    (s.setReg i v).rcon = s.rcon ∧ (s.setReg i v).osccon = s.osccon ∧ (s.setReg i v).mstrpr = s.mstrpr ∧
    (s.setReg i v).dsrPage = s.dsrPage ∧ (s.setReg i v).dswPage = s.dswPage ∧ (s.setReg i v).bdtp1 = s.bdtp1 ∧
    (s.setReg i v).bdtp2 = s.bdtp2 ∧ (s.setReg i v).bdtp3 = s.bdtp3 ∧ (s.setReg i v).accA = s.accA ∧
    (s.setReg i v).accB = s.accB ∧ (s.setReg i v).doStack = s.doStack ∧ (s.setReg i v).rpt = s.rpt ∧
    (s.setReg i v).gieSeen = s.gieSeen ∧ (s.setReg i v).lag = s.lag ∧ (s.setReg i v).power = s.power ∧
    (s.setReg i v).skid = s.skid ∧ (s.setReg i v).mem = s.mem ∧ (s.setReg i v).prog = s.prog ∧
    (s.setReg i v).agenda = s.agenda ∧ (s.setReg i v).meanwhile = s.meanwhile ∧ (s.setReg i v).readOut = s.readOut ∧
    (s.setReg i v).draws = s.draws :=
    ⟨rfl, rfl, rfl, rfl, rfl, rfl, rfl, rfl, rfl, rfl, rfl, rfl, rfl, rfl, rfl, rfl, rfl, rfl, rfl, rfl, rfl, rfl,
    rfl, rfl, rfl, rfl, rfl, rfl, rfl, rfl, rfl, rfl, rfl, rfl, rfl, rfl, rfl⟩

/-- `setIpl` changes only sr. -/
@[simp] theorem State.setIpl_frame (s : State) (l : Nat) :
    (s.setIpl l).cfg = s.cfg ∧ (s.setIpl l).w = s.w ∧ (s.setIpl l).pc = s.pc ∧ (s.setIpl l).splim = s.splim ∧
    (s.setIpl l).splimArmed = s.splimArmed ∧ (s.setIpl l).corcon = s.corcon ∧ (s.setIpl l).intcon1 = s.intcon1 ∧
    (s.setIpl l).intcon2 = s.intcon2 ∧ (s.setIpl l).intcon3 = s.intcon3 ∧ (s.setIpl l).intcon4 = s.intcon4 ∧
    (s.setIpl l).ifs = s.ifs ∧ (s.setIpl l).iec = s.iec ∧ (s.setIpl l).ipc = s.ipc ∧
    (s.setIpl l).inttreg = s.inttreg ∧ (s.setIpl l).disicnt = s.disicnt ∧ (s.setIpl l).rcon = s.rcon ∧
    (s.setIpl l).osccon = s.osccon ∧ (s.setIpl l).mstrpr = s.mstrpr ∧ (s.setIpl l).dsrPage = s.dsrPage ∧
    (s.setIpl l).dswPage = s.dswPage ∧ (s.setIpl l).bdtp1 = s.bdtp1 ∧ (s.setIpl l).bdtp2 = s.bdtp2 ∧
    (s.setIpl l).bdtp3 = s.bdtp3 ∧ (s.setIpl l).accA = s.accA ∧ (s.setIpl l).accB = s.accB ∧
    (s.setIpl l).doStack = s.doStack ∧ (s.setIpl l).rpt = s.rpt ∧ (s.setIpl l).gieSeen = s.gieSeen ∧
    (s.setIpl l).lag = s.lag ∧ (s.setIpl l).power = s.power ∧ (s.setIpl l).skid = s.skid ∧
    (s.setIpl l).mem = s.mem ∧ (s.setIpl l).prog = s.prog ∧ (s.setIpl l).agenda = s.agenda ∧
    (s.setIpl l).meanwhile = s.meanwhile ∧ (s.setIpl l).readOut = s.readOut ∧ (s.setIpl l).draws = s.draws :=
    ⟨rfl, rfl, rfl, rfl, rfl, rfl, rfl, rfl, rfl, rfl, rfl, rfl, rfl, rfl, rfl, rfl, rfl, rfl, rfl, rfl, rfl, rfl,
    rfl, rfl, rfl, rfl, rfl, rfl, rfl, rfl, rfl, rfl, rfl, rfl, rfl, rfl, rfl⟩

/-- `setSrl` changes only sr. -/
@[simp] theorem State.setSrl_frame (s : State) (v : Byte) :
    (s.setSrl v).cfg = s.cfg ∧ (s.setSrl v).w = s.w ∧ (s.setSrl v).pc = s.pc ∧ (s.setSrl v).splim = s.splim ∧
    (s.setSrl v).splimArmed = s.splimArmed ∧ (s.setSrl v).corcon = s.corcon ∧ (s.setSrl v).intcon1 = s.intcon1 ∧
    (s.setSrl v).intcon2 = s.intcon2 ∧ (s.setSrl v).intcon3 = s.intcon3 ∧ (s.setSrl v).intcon4 = s.intcon4 ∧
    (s.setSrl v).ifs = s.ifs ∧ (s.setSrl v).iec = s.iec ∧ (s.setSrl v).ipc = s.ipc ∧
    (s.setSrl v).inttreg = s.inttreg ∧ (s.setSrl v).disicnt = s.disicnt ∧ (s.setSrl v).rcon = s.rcon ∧
    (s.setSrl v).osccon = s.osccon ∧ (s.setSrl v).mstrpr = s.mstrpr ∧ (s.setSrl v).dsrPage = s.dsrPage ∧
    (s.setSrl v).dswPage = s.dswPage ∧ (s.setSrl v).bdtp1 = s.bdtp1 ∧ (s.setSrl v).bdtp2 = s.bdtp2 ∧
    (s.setSrl v).bdtp3 = s.bdtp3 ∧ (s.setSrl v).accA = s.accA ∧ (s.setSrl v).accB = s.accB ∧
    (s.setSrl v).doStack = s.doStack ∧ (s.setSrl v).rpt = s.rpt ∧ (s.setSrl v).gieSeen = s.gieSeen ∧
    (s.setSrl v).lag = s.lag ∧ (s.setSrl v).power = s.power ∧ (s.setSrl v).skid = s.skid ∧
    (s.setSrl v).mem = s.mem ∧ (s.setSrl v).prog = s.prog ∧ (s.setSrl v).agenda = s.agenda ∧
    (s.setSrl v).meanwhile = s.meanwhile ∧ (s.setSrl v).readOut = s.readOut ∧ (s.setSrl v).draws = s.draws :=
    ⟨rfl, rfl, rfl, rfl, rfl, rfl, rfl, rfl, rfl, rfl, rfl, rfl, rfl, rfl, rfl, rfl, rfl, rfl, rfl, rfl, rfl, rfl,
    rfl, rfl, rfl, rfl, rfl, rfl, rfl, rfl, rfl, rfl, rfl, rfl, rfl, rfl, rfl⟩

/-- `setRepeatActive` changes only sr. -/
@[simp] theorem State.setRepeatActive_frame (s : State) (b : Bool) :
    (s.setRepeatActive b).cfg = s.cfg ∧ (s.setRepeatActive b).w = s.w ∧ (s.setRepeatActive b).pc = s.pc ∧
    (s.setRepeatActive b).splim = s.splim ∧ (s.setRepeatActive b).splimArmed = s.splimArmed ∧
    (s.setRepeatActive b).corcon = s.corcon ∧ (s.setRepeatActive b).intcon1 = s.intcon1 ∧
    (s.setRepeatActive b).intcon2 = s.intcon2 ∧ (s.setRepeatActive b).intcon3 = s.intcon3 ∧
    (s.setRepeatActive b).intcon4 = s.intcon4 ∧ (s.setRepeatActive b).ifs = s.ifs ∧
    (s.setRepeatActive b).iec = s.iec ∧ (s.setRepeatActive b).ipc = s.ipc ∧
    (s.setRepeatActive b).inttreg = s.inttreg ∧ (s.setRepeatActive b).disicnt = s.disicnt ∧
    (s.setRepeatActive b).rcon = s.rcon ∧ (s.setRepeatActive b).osccon = s.osccon ∧
    (s.setRepeatActive b).mstrpr = s.mstrpr ∧ (s.setRepeatActive b).dsrPage = s.dsrPage ∧
    (s.setRepeatActive b).dswPage = s.dswPage ∧ (s.setRepeatActive b).bdtp1 = s.bdtp1 ∧
    (s.setRepeatActive b).bdtp2 = s.bdtp2 ∧ (s.setRepeatActive b).bdtp3 = s.bdtp3 ∧
    (s.setRepeatActive b).accA = s.accA ∧ (s.setRepeatActive b).accB = s.accB ∧
    (s.setRepeatActive b).doStack = s.doStack ∧ (s.setRepeatActive b).rpt = s.rpt ∧
    (s.setRepeatActive b).gieSeen = s.gieSeen ∧ (s.setRepeatActive b).lag = s.lag ∧
    (s.setRepeatActive b).power = s.power ∧ (s.setRepeatActive b).skid = s.skid ∧
    (s.setRepeatActive b).mem = s.mem ∧ (s.setRepeatActive b).prog = s.prog ∧
    (s.setRepeatActive b).agenda = s.agenda ∧ (s.setRepeatActive b).meanwhile = s.meanwhile ∧
    (s.setRepeatActive b).readOut = s.readOut ∧ (s.setRepeatActive b).draws = s.draws :=
    ⟨rfl, rfl, rfl, rfl, rfl, rfl, rfl, rfl, rfl, rfl, rfl, rfl, rfl, rfl, rfl, rfl, rfl, rfl, rfl, rfl, rfl, rfl,
    rfl, rfl, rfl, rfl, rfl, rfl, rfl, rfl, rfl, rfl, rfl, rfl, rfl, rfl, rfl⟩

/-- `setIpl3` changes only corcon. -/
@[simp] theorem State.setIpl3_frame (s : State) (b : Bool) :
    (s.setIpl3 b).cfg = s.cfg ∧ (s.setIpl3 b).w = s.w ∧ (s.setIpl3 b).pc = s.pc ∧ (s.setIpl3 b).splim = s.splim ∧
    (s.setIpl3 b).splimArmed = s.splimArmed ∧ (s.setIpl3 b).sr = s.sr ∧ (s.setIpl3 b).intcon1 = s.intcon1 ∧
    (s.setIpl3 b).intcon2 = s.intcon2 ∧ (s.setIpl3 b).intcon3 = s.intcon3 ∧ (s.setIpl3 b).intcon4 = s.intcon4 ∧
    (s.setIpl3 b).ifs = s.ifs ∧ (s.setIpl3 b).iec = s.iec ∧ (s.setIpl3 b).ipc = s.ipc ∧
    (s.setIpl3 b).inttreg = s.inttreg ∧ (s.setIpl3 b).disicnt = s.disicnt ∧ (s.setIpl3 b).rcon = s.rcon ∧
    (s.setIpl3 b).osccon = s.osccon ∧ (s.setIpl3 b).mstrpr = s.mstrpr ∧ (s.setIpl3 b).dsrPage = s.dsrPage ∧
    (s.setIpl3 b).dswPage = s.dswPage ∧ (s.setIpl3 b).bdtp1 = s.bdtp1 ∧ (s.setIpl3 b).bdtp2 = s.bdtp2 ∧
    (s.setIpl3 b).bdtp3 = s.bdtp3 ∧ (s.setIpl3 b).accA = s.accA ∧ (s.setIpl3 b).accB = s.accB ∧
    (s.setIpl3 b).doStack = s.doStack ∧ (s.setIpl3 b).rpt = s.rpt ∧ (s.setIpl3 b).gieSeen = s.gieSeen ∧
    (s.setIpl3 b).lag = s.lag ∧ (s.setIpl3 b).power = s.power ∧ (s.setIpl3 b).skid = s.skid ∧
    (s.setIpl3 b).mem = s.mem ∧ (s.setIpl3 b).prog = s.prog ∧ (s.setIpl3 b).agenda = s.agenda ∧
    (s.setIpl3 b).meanwhile = s.meanwhile ∧ (s.setIpl3 b).readOut = s.readOut ∧ (s.setIpl3 b).draws = s.draws :=
    ⟨rfl, rfl, rfl, rfl, rfl, rfl, rfl, rfl, rfl, rfl, rfl, rfl, rfl, rfl, rfl, rfl, rfl, rfl, rfl, rfl, rfl, rfl,
    rfl, rfl, rfl, rfl, rfl, rfl, rfl, rfl, rfl, rfl, rfl, rfl, rfl, rfl, rfl⟩

/-- `setSfa` changes only corcon. -/
@[simp] theorem State.setSfa_frame (s : State) (b : Bool) :
    (s.setSfa b).cfg = s.cfg ∧ (s.setSfa b).w = s.w ∧ (s.setSfa b).pc = s.pc ∧ (s.setSfa b).splim = s.splim ∧
    (s.setSfa b).splimArmed = s.splimArmed ∧ (s.setSfa b).sr = s.sr ∧ (s.setSfa b).intcon1 = s.intcon1 ∧
    (s.setSfa b).intcon2 = s.intcon2 ∧ (s.setSfa b).intcon3 = s.intcon3 ∧ (s.setSfa b).intcon4 = s.intcon4 ∧
    (s.setSfa b).ifs = s.ifs ∧ (s.setSfa b).iec = s.iec ∧ (s.setSfa b).ipc = s.ipc ∧
    (s.setSfa b).inttreg = s.inttreg ∧ (s.setSfa b).disicnt = s.disicnt ∧ (s.setSfa b).rcon = s.rcon ∧
    (s.setSfa b).osccon = s.osccon ∧ (s.setSfa b).mstrpr = s.mstrpr ∧ (s.setSfa b).dsrPage = s.dsrPage ∧
    (s.setSfa b).dswPage = s.dswPage ∧ (s.setSfa b).bdtp1 = s.bdtp1 ∧ (s.setSfa b).bdtp2 = s.bdtp2 ∧
    (s.setSfa b).bdtp3 = s.bdtp3 ∧ (s.setSfa b).accA = s.accA ∧ (s.setSfa b).accB = s.accB ∧
    (s.setSfa b).doStack = s.doStack ∧ (s.setSfa b).rpt = s.rpt ∧ (s.setSfa b).gieSeen = s.gieSeen ∧
    (s.setSfa b).lag = s.lag ∧ (s.setSfa b).power = s.power ∧ (s.setSfa b).skid = s.skid ∧
    (s.setSfa b).mem = s.mem ∧ (s.setSfa b).prog = s.prog ∧ (s.setSfa b).agenda = s.agenda ∧
    (s.setSfa b).meanwhile = s.meanwhile ∧ (s.setSfa b).readOut = s.readOut ∧ (s.setSfa b).draws = s.draws :=
    ⟨rfl, rfl, rfl, rfl, rfl, rfl, rfl, rfl, rfl, rfl, rfl, rfl, rfl, rfl, rfl, rfl, rfl, rfl, rfl, rfl, rfl, rfl,
    rfl, rfl, rfl, rfl, rfl, rfl, rfl, rfl, rfl, rfl, rfl, rfl, rfl, rfl, rfl⟩

/-- `setDoLevel` changes only corcon. -/
@[simp] theorem State.setDoLevel_frame (s : State) (l : Nat) :
    (s.setDoLevel l).cfg = s.cfg ∧ (s.setDoLevel l).w = s.w ∧ (s.setDoLevel l).pc = s.pc ∧
    (s.setDoLevel l).splim = s.splim ∧ (s.setDoLevel l).splimArmed = s.splimArmed ∧ (s.setDoLevel l).sr = s.sr ∧
    (s.setDoLevel l).intcon1 = s.intcon1 ∧ (s.setDoLevel l).intcon2 = s.intcon2 ∧
    (s.setDoLevel l).intcon3 = s.intcon3 ∧ (s.setDoLevel l).intcon4 = s.intcon4 ∧ (s.setDoLevel l).ifs = s.ifs ∧
    (s.setDoLevel l).iec = s.iec ∧ (s.setDoLevel l).ipc = s.ipc ∧ (s.setDoLevel l).inttreg = s.inttreg ∧
    (s.setDoLevel l).disicnt = s.disicnt ∧ (s.setDoLevel l).rcon = s.rcon ∧ (s.setDoLevel l).osccon = s.osccon ∧
    (s.setDoLevel l).mstrpr = s.mstrpr ∧ (s.setDoLevel l).dsrPage = s.dsrPage ∧
    (s.setDoLevel l).dswPage = s.dswPage ∧ (s.setDoLevel l).bdtp1 = s.bdtp1 ∧ (s.setDoLevel l).bdtp2 = s.bdtp2 ∧
    (s.setDoLevel l).bdtp3 = s.bdtp3 ∧ (s.setDoLevel l).accA = s.accA ∧ (s.setDoLevel l).accB = s.accB ∧
    (s.setDoLevel l).doStack = s.doStack ∧ (s.setDoLevel l).rpt = s.rpt ∧ (s.setDoLevel l).gieSeen = s.gieSeen ∧
    (s.setDoLevel l).lag = s.lag ∧ (s.setDoLevel l).power = s.power ∧ (s.setDoLevel l).skid = s.skid ∧
    (s.setDoLevel l).mem = s.mem ∧ (s.setDoLevel l).prog = s.prog ∧ (s.setDoLevel l).agenda = s.agenda ∧
    (s.setDoLevel l).meanwhile = s.meanwhile ∧ (s.setDoLevel l).readOut = s.readOut ∧
    (s.setDoLevel l).draws = s.draws :=
    ⟨rfl, rfl, rfl, rfl, rfl, rfl, rfl, rfl, rfl, rfl, rfl, rfl, rfl, rfl, rfl, rfl, rfl, rfl, rfl, rfl, rfl, rfl,
    rfl, rfl, rfl, rfl, rfl, rfl, rfl, rfl, rfl, rfl, rfl, rfl, rfl, rfl, rfl⟩

/-- `setDisiBit` changes only intcon2. -/
@[simp] theorem State.setDisiBit_frame (s : State) (b : Bool) :
    (s.setDisiBit b).cfg = s.cfg ∧ (s.setDisiBit b).w = s.w ∧ (s.setDisiBit b).pc = s.pc ∧
    (s.setDisiBit b).splim = s.splim ∧ (s.setDisiBit b).splimArmed = s.splimArmed ∧ (s.setDisiBit b).sr = s.sr ∧
    (s.setDisiBit b).corcon = s.corcon ∧ (s.setDisiBit b).intcon1 = s.intcon1 ∧
    (s.setDisiBit b).intcon3 = s.intcon3 ∧ (s.setDisiBit b).intcon4 = s.intcon4 ∧ (s.setDisiBit b).ifs = s.ifs ∧
    (s.setDisiBit b).iec = s.iec ∧ (s.setDisiBit b).ipc = s.ipc ∧ (s.setDisiBit b).inttreg = s.inttreg ∧
    (s.setDisiBit b).disicnt = s.disicnt ∧ (s.setDisiBit b).rcon = s.rcon ∧ (s.setDisiBit b).osccon = s.osccon ∧
    (s.setDisiBit b).mstrpr = s.mstrpr ∧ (s.setDisiBit b).dsrPage = s.dsrPage ∧
    (s.setDisiBit b).dswPage = s.dswPage ∧ (s.setDisiBit b).bdtp1 = s.bdtp1 ∧ (s.setDisiBit b).bdtp2 = s.bdtp2 ∧
    (s.setDisiBit b).bdtp3 = s.bdtp3 ∧ (s.setDisiBit b).accA = s.accA ∧ (s.setDisiBit b).accB = s.accB ∧
    (s.setDisiBit b).doStack = s.doStack ∧ (s.setDisiBit b).rpt = s.rpt ∧ (s.setDisiBit b).gieSeen = s.gieSeen ∧
    (s.setDisiBit b).lag = s.lag ∧ (s.setDisiBit b).power = s.power ∧ (s.setDisiBit b).skid = s.skid ∧
    (s.setDisiBit b).mem = s.mem ∧ (s.setDisiBit b).prog = s.prog ∧ (s.setDisiBit b).agenda = s.agenda ∧
    (s.setDisiBit b).meanwhile = s.meanwhile ∧ (s.setDisiBit b).readOut = s.readOut ∧
    (s.setDisiBit b).draws = s.draws :=
    ⟨rfl, rfl, rfl, rfl, rfl, rfl, rfl, rfl, rfl, rfl, rfl, rfl, rfl, rfl, rfl, rfl, rfl, rfl, rfl, rfl, rfl, rfl,
    rfl, rfl, rfl, rfl, rfl, rfl, rfl, rfl, rfl, rfl, rfl, rfl, rfl, rfl, rfl⟩

/-- `writeByte` changes only mem. -/
@[simp] theorem State.writeByte_frame (s : State) (a : Nat) (v : Byte) :
    (s.writeByte a v).cfg = s.cfg ∧ (s.writeByte a v).w = s.w ∧ (s.writeByte a v).pc = s.pc ∧
    (s.writeByte a v).splim = s.splim ∧ (s.writeByte a v).splimArmed = s.splimArmed ∧ (s.writeByte a v).sr = s.sr ∧
    (s.writeByte a v).corcon = s.corcon ∧ (s.writeByte a v).intcon1 = s.intcon1 ∧
    (s.writeByte a v).intcon2 = s.intcon2 ∧ (s.writeByte a v).intcon3 = s.intcon3 ∧
    (s.writeByte a v).intcon4 = s.intcon4 ∧ (s.writeByte a v).ifs = s.ifs ∧ (s.writeByte a v).iec = s.iec ∧
    (s.writeByte a v).ipc = s.ipc ∧ (s.writeByte a v).inttreg = s.inttreg ∧ (s.writeByte a v).disicnt = s.disicnt ∧
    (s.writeByte a v).rcon = s.rcon ∧ (s.writeByte a v).osccon = s.osccon ∧ (s.writeByte a v).mstrpr = s.mstrpr ∧
    (s.writeByte a v).dsrPage = s.dsrPage ∧ (s.writeByte a v).dswPage = s.dswPage ∧
    (s.writeByte a v).bdtp1 = s.bdtp1 ∧ (s.writeByte a v).bdtp2 = s.bdtp2 ∧ (s.writeByte a v).bdtp3 = s.bdtp3 ∧
    (s.writeByte a v).accA = s.accA ∧ (s.writeByte a v).accB = s.accB ∧ (s.writeByte a v).doStack = s.doStack ∧
    (s.writeByte a v).rpt = s.rpt ∧ (s.writeByte a v).gieSeen = s.gieSeen ∧ (s.writeByte a v).lag = s.lag ∧
    (s.writeByte a v).power = s.power ∧ (s.writeByte a v).skid = s.skid ∧ (s.writeByte a v).prog = s.prog ∧
    (s.writeByte a v).agenda = s.agenda ∧ (s.writeByte a v).meanwhile = s.meanwhile ∧
    (s.writeByte a v).readOut = s.readOut ∧ (s.writeByte a v).draws = s.draws :=
    ⟨rfl, rfl, rfl, rfl, rfl, rfl, rfl, rfl, rfl, rfl, rfl, rfl, rfl, rfl, rfl, rfl, rfl, rfl, rfl, rfl, rfl, rfl,
    rfl, rfl, rfl, rfl, rfl, rfl, rfl, rfl, rfl, rfl, rfl, rfl, rfl, rfl, rfl⟩

/-- `writeWord` changes only mem. -/
@[simp] theorem State.writeWord_frame (s : State) (ea v : Word) :
    (s.writeWord ea v).cfg = s.cfg ∧ (s.writeWord ea v).w = s.w ∧ (s.writeWord ea v).pc = s.pc ∧
    (s.writeWord ea v).splim = s.splim ∧ (s.writeWord ea v).splimArmed = s.splimArmed ∧
    (s.writeWord ea v).sr = s.sr ∧ (s.writeWord ea v).corcon = s.corcon ∧ (s.writeWord ea v).intcon1 = s.intcon1 ∧
    (s.writeWord ea v).intcon2 = s.intcon2 ∧ (s.writeWord ea v).intcon3 = s.intcon3 ∧
    (s.writeWord ea v).intcon4 = s.intcon4 ∧ (s.writeWord ea v).ifs = s.ifs ∧ (s.writeWord ea v).iec = s.iec ∧
    (s.writeWord ea v).ipc = s.ipc ∧ (s.writeWord ea v).inttreg = s.inttreg ∧
    (s.writeWord ea v).disicnt = s.disicnt ∧ (s.writeWord ea v).rcon = s.rcon ∧
    (s.writeWord ea v).osccon = s.osccon ∧ (s.writeWord ea v).mstrpr = s.mstrpr ∧
    (s.writeWord ea v).dsrPage = s.dsrPage ∧ (s.writeWord ea v).dswPage = s.dswPage ∧
    (s.writeWord ea v).bdtp1 = s.bdtp1 ∧ (s.writeWord ea v).bdtp2 = s.bdtp2 ∧ (s.writeWord ea v).bdtp3 = s.bdtp3 ∧
    (s.writeWord ea v).accA = s.accA ∧ (s.writeWord ea v).accB = s.accB ∧ (s.writeWord ea v).doStack = s.doStack ∧
    (s.writeWord ea v).rpt = s.rpt ∧ (s.writeWord ea v).gieSeen = s.gieSeen ∧ (s.writeWord ea v).lag = s.lag ∧
    (s.writeWord ea v).power = s.power ∧ (s.writeWord ea v).skid = s.skid ∧ (s.writeWord ea v).prog = s.prog ∧
    (s.writeWord ea v).agenda = s.agenda ∧ (s.writeWord ea v).meanwhile = s.meanwhile ∧
    (s.writeWord ea v).readOut = s.readOut ∧ (s.writeWord ea v).draws = s.draws :=
    ⟨rfl, rfl, rfl, rfl, rfl, rfl, rfl, rfl, rfl, rfl, rfl, rfl, rfl, rfl, rfl, rfl, rfl, rfl, rfl, rfl, rfl, rfl,
    rfl, rfl, rfl, rfl, rfl, rfl, rfl, rfl, rfl, rfl, rfl, rfl, rfl, rfl, rfl⟩

/-- `clearLag` changes only lag. -/
@[simp] theorem State.clearLag_frame (s : State) :
    (s.clearLag).cfg = s.cfg ∧ (s.clearLag).w = s.w ∧ (s.clearLag).pc = s.pc ∧ (s.clearLag).splim = s.splim ∧
    (s.clearLag).splimArmed = s.splimArmed ∧ (s.clearLag).sr = s.sr ∧ (s.clearLag).corcon = s.corcon ∧
    (s.clearLag).intcon1 = s.intcon1 ∧ (s.clearLag).intcon2 = s.intcon2 ∧ (s.clearLag).intcon3 = s.intcon3 ∧
    (s.clearLag).intcon4 = s.intcon4 ∧ (s.clearLag).ifs = s.ifs ∧ (s.clearLag).iec = s.iec ∧
    (s.clearLag).ipc = s.ipc ∧ (s.clearLag).inttreg = s.inttreg ∧ (s.clearLag).disicnt = s.disicnt ∧
    (s.clearLag).rcon = s.rcon ∧ (s.clearLag).osccon = s.osccon ∧ (s.clearLag).mstrpr = s.mstrpr ∧
    (s.clearLag).dsrPage = s.dsrPage ∧ (s.clearLag).dswPage = s.dswPage ∧ (s.clearLag).bdtp1 = s.bdtp1 ∧
    (s.clearLag).bdtp2 = s.bdtp2 ∧ (s.clearLag).bdtp3 = s.bdtp3 ∧ (s.clearLag).accA = s.accA ∧
    (s.clearLag).accB = s.accB ∧ (s.clearLag).doStack = s.doStack ∧ (s.clearLag).rpt = s.rpt ∧
    (s.clearLag).gieSeen = s.gieSeen ∧ (s.clearLag).power = s.power ∧ (s.clearLag).skid = s.skid ∧
    (s.clearLag).mem = s.mem ∧ (s.clearLag).prog = s.prog ∧ (s.clearLag).agenda = s.agenda ∧
    (s.clearLag).meanwhile = s.meanwhile ∧ (s.clearLag).readOut = s.readOut ∧ (s.clearLag).draws = s.draws :=
    ⟨rfl, rfl, rfl, rfl, rfl, rfl, rfl, rfl, rfl, rfl, rfl, rfl, rfl, rfl, rfl, rfl, rfl, rfl, rfl, rfl, rfl, rfl,
    rfl, rfl, rfl, rfl, rfl, rfl, rfl, rfl, rfl, rfl, rfl, rfl, rfl, rfl, rfl⟩

/-- `rememberMask` changes only lag. -/
@[simp] theorem State.rememberMask_frame (s : State) (old : MaskOld) :
    (s.rememberMask old).cfg = s.cfg ∧ (s.rememberMask old).w = s.w ∧ (s.rememberMask old).pc = s.pc ∧
    (s.rememberMask old).splim = s.splim ∧ (s.rememberMask old).splimArmed = s.splimArmed ∧
    (s.rememberMask old).sr = s.sr ∧ (s.rememberMask old).corcon = s.corcon ∧
    (s.rememberMask old).intcon1 = s.intcon1 ∧ (s.rememberMask old).intcon2 = s.intcon2 ∧
    (s.rememberMask old).intcon3 = s.intcon3 ∧ (s.rememberMask old).intcon4 = s.intcon4 ∧
    (s.rememberMask old).ifs = s.ifs ∧ (s.rememberMask old).iec = s.iec ∧ (s.rememberMask old).ipc = s.ipc ∧
    (s.rememberMask old).inttreg = s.inttreg ∧ (s.rememberMask old).disicnt = s.disicnt ∧
    (s.rememberMask old).rcon = s.rcon ∧ (s.rememberMask old).osccon = s.osccon ∧
    (s.rememberMask old).mstrpr = s.mstrpr ∧ (s.rememberMask old).dsrPage = s.dsrPage ∧
    (s.rememberMask old).dswPage = s.dswPage ∧ (s.rememberMask old).bdtp1 = s.bdtp1 ∧
    (s.rememberMask old).bdtp2 = s.bdtp2 ∧ (s.rememberMask old).bdtp3 = s.bdtp3 ∧
    (s.rememberMask old).accA = s.accA ∧ (s.rememberMask old).accB = s.accB ∧
    (s.rememberMask old).doStack = s.doStack ∧ (s.rememberMask old).rpt = s.rpt ∧
    (s.rememberMask old).gieSeen = s.gieSeen ∧ (s.rememberMask old).power = s.power ∧
    (s.rememberMask old).skid = s.skid ∧ (s.rememberMask old).mem = s.mem ∧ (s.rememberMask old).prog = s.prog ∧
    (s.rememberMask old).agenda = s.agenda ∧ (s.rememberMask old).meanwhile = s.meanwhile ∧
    (s.rememberMask old).readOut = s.readOut ∧ (s.rememberMask old).draws = s.draws :=
    ⟨rfl, rfl, rfl, rfl, rfl, rfl, rfl, rfl, rfl, rfl, rfl, rfl, rfl, rfl, rfl, rfl, rfl, rfl, rfl, rfl, rfl, rfl,
    rfl, rfl, rfl, rfl, rfl, rfl, rfl, rfl, rfl, rfl, rfl, rfl, rfl, rfl, rfl⟩

/-- `draw` changes only draws. -/
@[simp] theorem State.draw_frame (s : State) :
    (s.draw.2).cfg = s.cfg ∧ (s.draw.2).w = s.w ∧ (s.draw.2).pc = s.pc ∧ (s.draw.2).splim = s.splim ∧
    (s.draw.2).splimArmed = s.splimArmed ∧ (s.draw.2).sr = s.sr ∧ (s.draw.2).corcon = s.corcon ∧
    (s.draw.2).intcon1 = s.intcon1 ∧ (s.draw.2).intcon2 = s.intcon2 ∧ (s.draw.2).intcon3 = s.intcon3 ∧
    (s.draw.2).intcon4 = s.intcon4 ∧ (s.draw.2).ifs = s.ifs ∧ (s.draw.2).iec = s.iec ∧ (s.draw.2).ipc = s.ipc ∧
    (s.draw.2).inttreg = s.inttreg ∧ (s.draw.2).disicnt = s.disicnt ∧ (s.draw.2).rcon = s.rcon ∧
    (s.draw.2).osccon = s.osccon ∧ (s.draw.2).mstrpr = s.mstrpr ∧ (s.draw.2).dsrPage = s.dsrPage ∧
    (s.draw.2).dswPage = s.dswPage ∧ (s.draw.2).bdtp1 = s.bdtp1 ∧ (s.draw.2).bdtp2 = s.bdtp2 ∧
    (s.draw.2).bdtp3 = s.bdtp3 ∧ (s.draw.2).accA = s.accA ∧ (s.draw.2).accB = s.accB ∧
    (s.draw.2).doStack = s.doStack ∧ (s.draw.2).rpt = s.rpt ∧ (s.draw.2).gieSeen = s.gieSeen ∧
    (s.draw.2).lag = s.lag ∧ (s.draw.2).power = s.power ∧ (s.draw.2).skid = s.skid ∧ (s.draw.2).mem = s.mem ∧
    (s.draw.2).prog = s.prog ∧ (s.draw.2).agenda = s.agenda ∧ (s.draw.2).meanwhile = s.meanwhile ∧
    (s.draw.2).readOut = s.readOut :=
    ⟨rfl, rfl, rfl, rfl, rfl, rfl, rfl, rfl, rfl, rfl, rfl, rfl, rfl, rfl, rfl, rfl, rfl, rfl, rfl, rfl, rfl, rfl,
    rfl, rfl, rfl, rfl, rfl, rfl, rfl, rfl, rfl, rfl, rfl, rfl, rfl, rfl, rfl⟩

/-- `drawBool` changes only draws. -/
@[simp] theorem State.drawBool_frame (s : State) :
    (s.drawBool.2).cfg = s.cfg ∧ (s.drawBool.2).w = s.w ∧ (s.drawBool.2).pc = s.pc ∧
    (s.drawBool.2).splim = s.splim ∧ (s.drawBool.2).splimArmed = s.splimArmed ∧ (s.drawBool.2).sr = s.sr ∧
    (s.drawBool.2).corcon = s.corcon ∧ (s.drawBool.2).intcon1 = s.intcon1 ∧ (s.drawBool.2).intcon2 = s.intcon2 ∧
    (s.drawBool.2).intcon3 = s.intcon3 ∧ (s.drawBool.2).intcon4 = s.intcon4 ∧ (s.drawBool.2).ifs = s.ifs ∧
    (s.drawBool.2).iec = s.iec ∧ (s.drawBool.2).ipc = s.ipc ∧ (s.drawBool.2).inttreg = s.inttreg ∧
    (s.drawBool.2).disicnt = s.disicnt ∧ (s.drawBool.2).rcon = s.rcon ∧ (s.drawBool.2).osccon = s.osccon ∧
    (s.drawBool.2).mstrpr = s.mstrpr ∧ (s.drawBool.2).dsrPage = s.dsrPage ∧ (s.drawBool.2).dswPage = s.dswPage ∧
    (s.drawBool.2).bdtp1 = s.bdtp1 ∧ (s.drawBool.2).bdtp2 = s.bdtp2 ∧ (s.drawBool.2).bdtp3 = s.bdtp3 ∧
    (s.drawBool.2).accA = s.accA ∧ (s.drawBool.2).accB = s.accB ∧ (s.drawBool.2).doStack = s.doStack ∧
    (s.drawBool.2).rpt = s.rpt ∧ (s.drawBool.2).gieSeen = s.gieSeen ∧ (s.drawBool.2).lag = s.lag ∧
    (s.drawBool.2).power = s.power ∧ (s.drawBool.2).skid = s.skid ∧ (s.drawBool.2).mem = s.mem ∧
    (s.drawBool.2).prog = s.prog ∧ (s.drawBool.2).agenda = s.agenda ∧ (s.drawBool.2).meanwhile = s.meanwhile ∧
    (s.drawBool.2).readOut = s.readOut :=
    ⟨rfl, rfl, rfl, rfl, rfl, rfl, rfl, rfl, rfl, rfl, rfl, rfl, rfl, rfl, rfl, rfl, rfl, rfl, rfl, rfl, rfl, rfl,
    rfl, rfl, rfl, rfl, rfl, rfl, rfl, rfl, rfl, rfl, rfl, rfl, rfl, rfl, rfl⟩

/-- `drawWord` changes only draws. -/
@[simp] theorem State.drawWord_frame (s : State) :
    (s.drawWord.2).cfg = s.cfg ∧ (s.drawWord.2).w = s.w ∧ (s.drawWord.2).pc = s.pc ∧
    (s.drawWord.2).splim = s.splim ∧ (s.drawWord.2).splimArmed = s.splimArmed ∧ (s.drawWord.2).sr = s.sr ∧
    (s.drawWord.2).corcon = s.corcon ∧ (s.drawWord.2).intcon1 = s.intcon1 ∧ (s.drawWord.2).intcon2 = s.intcon2 ∧
    (s.drawWord.2).intcon3 = s.intcon3 ∧ (s.drawWord.2).intcon4 = s.intcon4 ∧ (s.drawWord.2).ifs = s.ifs ∧
    (s.drawWord.2).iec = s.iec ∧ (s.drawWord.2).ipc = s.ipc ∧ (s.drawWord.2).inttreg = s.inttreg ∧
    (s.drawWord.2).disicnt = s.disicnt ∧ (s.drawWord.2).rcon = s.rcon ∧ (s.drawWord.2).osccon = s.osccon ∧
    (s.drawWord.2).mstrpr = s.mstrpr ∧ (s.drawWord.2).dsrPage = s.dsrPage ∧ (s.drawWord.2).dswPage = s.dswPage ∧
    (s.drawWord.2).bdtp1 = s.bdtp1 ∧ (s.drawWord.2).bdtp2 = s.bdtp2 ∧ (s.drawWord.2).bdtp3 = s.bdtp3 ∧
    (s.drawWord.2).accA = s.accA ∧ (s.drawWord.2).accB = s.accB ∧ (s.drawWord.2).doStack = s.doStack ∧
    (s.drawWord.2).rpt = s.rpt ∧ (s.drawWord.2).gieSeen = s.gieSeen ∧ (s.drawWord.2).lag = s.lag ∧
    (s.drawWord.2).power = s.power ∧ (s.drawWord.2).skid = s.skid ∧ (s.drawWord.2).mem = s.mem ∧
    (s.drawWord.2).prog = s.prog ∧ (s.drawWord.2).agenda = s.agenda ∧ (s.drawWord.2).meanwhile = s.meanwhile ∧
    (s.drawWord.2).readOut = s.readOut :=
    ⟨rfl, rfl, rfl, rfl, rfl, rfl, rfl, rfl, rfl, rfl, rfl, rfl, rfl, rfl, rfl, rfl, rfl, rfl, rfl, rfl, rfl, rfl,
    rfl, rfl, rfl, rfl, rfl, rfl, rfl, rfl, rfl, rfl, rfl, rfl, rfl, rfl, rfl⟩

/-- `setRegFree` changes only w, draws. -/
@[simp] theorem State.setRegFree_frame (s : State) (i : Fin 16) :
    (s.setRegFree i).cfg = s.cfg ∧ (s.setRegFree i).pc = s.pc ∧ (s.setRegFree i).splim = s.splim ∧
    (s.setRegFree i).splimArmed = s.splimArmed ∧ (s.setRegFree i).sr = s.sr ∧ (s.setRegFree i).corcon = s.corcon ∧
    (s.setRegFree i).intcon1 = s.intcon1 ∧ (s.setRegFree i).intcon2 = s.intcon2 ∧
    (s.setRegFree i).intcon3 = s.intcon3 ∧ (s.setRegFree i).intcon4 = s.intcon4 ∧ (s.setRegFree i).ifs = s.ifs ∧
    (s.setRegFree i).iec = s.iec ∧ (s.setRegFree i).ipc = s.ipc ∧ (s.setRegFree i).inttreg = s.inttreg ∧
    (s.setRegFree i).disicnt = s.disicnt ∧ (s.setRegFree i).rcon = s.rcon ∧ (s.setRegFree i).osccon = s.osccon ∧
    (s.setRegFree i).mstrpr = s.mstrpr ∧ (s.setRegFree i).dsrPage = s.dsrPage ∧
    (s.setRegFree i).dswPage = s.dswPage ∧ (s.setRegFree i).bdtp1 = s.bdtp1 ∧ (s.setRegFree i).bdtp2 = s.bdtp2 ∧
    (s.setRegFree i).bdtp3 = s.bdtp3 ∧ (s.setRegFree i).accA = s.accA ∧ (s.setRegFree i).accB = s.accB ∧
    (s.setRegFree i).doStack = s.doStack ∧ (s.setRegFree i).rpt = s.rpt ∧ (s.setRegFree i).gieSeen = s.gieSeen ∧
    (s.setRegFree i).lag = s.lag ∧ (s.setRegFree i).power = s.power ∧ (s.setRegFree i).skid = s.skid ∧
    (s.setRegFree i).mem = s.mem ∧ (s.setRegFree i).prog = s.prog ∧ (s.setRegFree i).agenda = s.agenda ∧
    (s.setRegFree i).meanwhile = s.meanwhile ∧ (s.setRegFree i).readOut = s.readOut :=
    ⟨rfl, rfl, rfl, rfl, rfl, rfl, rfl, rfl, rfl, rfl, rfl, rfl, rfl, rfl, rfl, rfl, rfl, rfl, rfl, rfl, rfl, rfl,
    rfl, rfl, rfl, rfl, rfl, rfl, rfl, rfl, rfl, rfl, rfl, rfl, rfl, rfl⟩

/-- `setSrFree` changes only sr, draws. -/
@[simp] theorem State.setSrFree_frame (s : State) (m : Word) :
    (s.setSrFree m).cfg = s.cfg ∧ (s.setSrFree m).w = s.w ∧ (s.setSrFree m).pc = s.pc ∧
    (s.setSrFree m).splim = s.splim ∧ (s.setSrFree m).splimArmed = s.splimArmed ∧
    (s.setSrFree m).corcon = s.corcon ∧ (s.setSrFree m).intcon1 = s.intcon1 ∧ (s.setSrFree m).intcon2 = s.intcon2 ∧
    (s.setSrFree m).intcon3 = s.intcon3 ∧ (s.setSrFree m).intcon4 = s.intcon4 ∧ (s.setSrFree m).ifs = s.ifs ∧
    (s.setSrFree m).iec = s.iec ∧ (s.setSrFree m).ipc = s.ipc ∧ (s.setSrFree m).inttreg = s.inttreg ∧
    (s.setSrFree m).disicnt = s.disicnt ∧ (s.setSrFree m).rcon = s.rcon ∧ (s.setSrFree m).osccon = s.osccon ∧
    (s.setSrFree m).mstrpr = s.mstrpr ∧ (s.setSrFree m).dsrPage = s.dsrPage ∧ (s.setSrFree m).dswPage = s.dswPage ∧
    (s.setSrFree m).bdtp1 = s.bdtp1 ∧ (s.setSrFree m).bdtp2 = s.bdtp2 ∧ (s.setSrFree m).bdtp3 = s.bdtp3 ∧
    (s.setSrFree m).accA = s.accA ∧ (s.setSrFree m).accB = s.accB ∧ (s.setSrFree m).doStack = s.doStack ∧
    (s.setSrFree m).rpt = s.rpt ∧ (s.setSrFree m).gieSeen = s.gieSeen ∧ (s.setSrFree m).lag = s.lag ∧
    (s.setSrFree m).power = s.power ∧ (s.setSrFree m).skid = s.skid ∧ (s.setSrFree m).mem = s.mem ∧
    (s.setSrFree m).prog = s.prog ∧ (s.setSrFree m).agenda = s.agenda ∧ (s.setSrFree m).meanwhile = s.meanwhile ∧
    (s.setSrFree m).readOut = s.readOut :=
    ⟨rfl, rfl, rfl, rfl, rfl, rfl, rfl, rfl, rfl, rfl, rfl, rfl, rfl, rfl, rfl, rfl, rfl, rfl, rfl, rfl, rfl, rfl,
    rfl, rfl, rfl, rfl, rfl, rfl, rfl, rfl, rfl, rfl, rfl, rfl, rfl, rfl⟩

/-- `dropCleared` changes only skid and the old mask values. -/
@[simp] theorem State.dropCleared_frame (s : State) :
    (s.dropCleared).cfg = s.cfg ∧ (s.dropCleared).w = s.w ∧ (s.dropCleared).pc = s.pc ∧ (s.dropCleared).splim = s.splim ∧
    (s.dropCleared).splimArmed = s.splimArmed ∧ (s.dropCleared).sr = s.sr ∧ (s.dropCleared).corcon = s.corcon ∧
    (s.dropCleared).intcon1 = s.intcon1 ∧ (s.dropCleared).intcon2 = s.intcon2 ∧ (s.dropCleared).intcon3 = s.intcon3 ∧
    (s.dropCleared).intcon4 = s.intcon4 ∧ (s.dropCleared).ifs = s.ifs ∧ (s.dropCleared).iec = s.iec ∧
    (s.dropCleared).ipc = s.ipc ∧ (s.dropCleared).inttreg = s.inttreg ∧ (s.dropCleared).disicnt = s.disicnt ∧
    (s.dropCleared).rcon = s.rcon ∧ (s.dropCleared).osccon = s.osccon ∧ (s.dropCleared).mstrpr = s.mstrpr ∧
    (s.dropCleared).dsrPage = s.dsrPage ∧ (s.dropCleared).dswPage = s.dswPage ∧ (s.dropCleared).bdtp1 = s.bdtp1 ∧
    (s.dropCleared).bdtp2 = s.bdtp2 ∧ (s.dropCleared).bdtp3 = s.bdtp3 ∧ (s.dropCleared).accA = s.accA ∧
    (s.dropCleared).accB = s.accB ∧ (s.dropCleared).doStack = s.doStack ∧ (s.dropCleared).rpt = s.rpt ∧
    (s.dropCleared).gieSeen = s.gieSeen ∧ (s.dropCleared).lag.gie = s.lag.gie ∧ (s.dropCleared).power = s.power ∧
    (s.dropCleared).mem = s.mem ∧ (s.dropCleared).prog = s.prog ∧ (s.dropCleared).agenda = s.agenda ∧
    (s.dropCleared).meanwhile = s.meanwhile ∧ (s.dropCleared).readOut = s.readOut ∧ (s.dropCleared).draws = s.draws :=
    ⟨rfl, rfl, rfl, rfl, rfl, rfl, rfl, rfl, rfl, rfl, rfl, rfl, rfl, rfl, rfl, rfl, rfl, rfl, rfl, rfl, rfl, rfl,
    rfl, rfl, rfl, rfl, rfl, rfl, rfl, rfl, rfl, rfl, rfl, rfl, rfl, rfl, rfl⟩

/-- `setSkid` changes only skid. -/
@[simp] theorem State.setSkid_frame (s : State) (t : Trap) (n : Nat) :
    (s.setSkid t n).cfg = s.cfg ∧ (s.setSkid t n).w = s.w ∧ (s.setSkid t n).pc = s.pc ∧
    (s.setSkid t n).splim = s.splim ∧ (s.setSkid t n).splimArmed = s.splimArmed ∧ (s.setSkid t n).sr = s.sr ∧
    (s.setSkid t n).corcon = s.corcon ∧ (s.setSkid t n).intcon1 = s.intcon1 ∧ (s.setSkid t n).intcon2 = s.intcon2 ∧
    (s.setSkid t n).intcon3 = s.intcon3 ∧ (s.setSkid t n).intcon4 = s.intcon4 ∧ (s.setSkid t n).ifs = s.ifs ∧
    (s.setSkid t n).iec = s.iec ∧ (s.setSkid t n).ipc = s.ipc ∧ (s.setSkid t n).inttreg = s.inttreg ∧
    (s.setSkid t n).disicnt = s.disicnt ∧ (s.setSkid t n).rcon = s.rcon ∧ (s.setSkid t n).osccon = s.osccon ∧
    (s.setSkid t n).mstrpr = s.mstrpr ∧ (s.setSkid t n).dsrPage = s.dsrPage ∧ (s.setSkid t n).dswPage = s.dswPage ∧
    (s.setSkid t n).bdtp1 = s.bdtp1 ∧ (s.setSkid t n).bdtp2 = s.bdtp2 ∧ (s.setSkid t n).bdtp3 = s.bdtp3 ∧
    (s.setSkid t n).accA = s.accA ∧ (s.setSkid t n).accB = s.accB ∧ (s.setSkid t n).doStack = s.doStack ∧
    (s.setSkid t n).rpt = s.rpt ∧ (s.setSkid t n).gieSeen = s.gieSeen ∧ (s.setSkid t n).lag = s.lag ∧
    (s.setSkid t n).power = s.power ∧ (s.setSkid t n).mem = s.mem ∧ (s.setSkid t n).prog = s.prog ∧
    (s.setSkid t n).agenda = s.agenda ∧ (s.setSkid t n).meanwhile = s.meanwhile ∧
    (s.setSkid t n).readOut = s.readOut ∧ (s.setSkid t n).draws = s.draws := by
    cases t <;> exact ⟨rfl, rfl, rfl, rfl, rfl, rfl, rfl, rfl, rfl, rfl, rfl, rfl, rfl, rfl, rfl, rfl, rfl, rfl, rfl,
      rfl, rfl, rfl, rfl, rfl, rfl, rfl, rfl, rfl, rfl, rfl, rfl, rfl, rfl, rfl, rfl, rfl, rfl⟩

/-- `setAcc` changes only accA, accB. -/
@[simp] theorem State.setAcc_frame (s : State) (n : AccName) (v : AccWord) :
    (s.setAcc n v).cfg = s.cfg ∧ (s.setAcc n v).w = s.w ∧ (s.setAcc n v).pc = s.pc ∧
    (s.setAcc n v).splim = s.splim ∧ (s.setAcc n v).splimArmed = s.splimArmed ∧ (s.setAcc n v).sr = s.sr ∧
    (s.setAcc n v).corcon = s.corcon ∧ (s.setAcc n v).intcon1 = s.intcon1 ∧ (s.setAcc n v).intcon2 = s.intcon2 ∧
    (s.setAcc n v).intcon3 = s.intcon3 ∧ (s.setAcc n v).intcon4 = s.intcon4 ∧ (s.setAcc n v).ifs = s.ifs ∧
    (s.setAcc n v).iec = s.iec ∧ (s.setAcc n v).ipc = s.ipc ∧ (s.setAcc n v).inttreg = s.inttreg ∧
    (s.setAcc n v).disicnt = s.disicnt ∧ (s.setAcc n v).rcon = s.rcon ∧ (s.setAcc n v).osccon = s.osccon ∧
    (s.setAcc n v).mstrpr = s.mstrpr ∧ (s.setAcc n v).dsrPage = s.dsrPage ∧ (s.setAcc n v).dswPage = s.dswPage ∧
    (s.setAcc n v).bdtp1 = s.bdtp1 ∧ (s.setAcc n v).bdtp2 = s.bdtp2 ∧ (s.setAcc n v).bdtp3 = s.bdtp3 ∧
    (s.setAcc n v).doStack = s.doStack ∧ (s.setAcc n v).rpt = s.rpt ∧ (s.setAcc n v).gieSeen = s.gieSeen ∧
    (s.setAcc n v).lag = s.lag ∧ (s.setAcc n v).power = s.power ∧ (s.setAcc n v).skid = s.skid ∧
    (s.setAcc n v).mem = s.mem ∧ (s.setAcc n v).prog = s.prog ∧ (s.setAcc n v).agenda = s.agenda ∧
    (s.setAcc n v).meanwhile = s.meanwhile ∧ (s.setAcc n v).readOut = s.readOut ∧ (s.setAcc n v).draws = s.draws := by
    cases n <;> exact ⟨rfl, rfl, rfl, rfl, rfl, rfl, rfl, rfl, rfl, rfl, rfl, rfl, rfl, rfl, rfl, rfl, rfl, rfl, rfl,
      rfl, rfl, rfl, rfl, rfl, rfl, rfl, rfl, rfl, rfl, rfl, rfl, rfl, rfl, rfl, rfl, rfl⟩

/-- `setHardFlag` changes only intcon1, intcon4. -/
@[simp] theorem State.setHardFlag_frame (s : State) (h : Trap) :
    (s.setHardFlag h).cfg = s.cfg ∧ (s.setHardFlag h).w = s.w ∧ (s.setHardFlag h).pc = s.pc ∧
    (s.setHardFlag h).splim = s.splim ∧ (s.setHardFlag h).splimArmed = s.splimArmed ∧ (s.setHardFlag h).sr = s.sr ∧
    (s.setHardFlag h).corcon = s.corcon ∧ (s.setHardFlag h).intcon2 = s.intcon2 ∧
    (s.setHardFlag h).intcon3 = s.intcon3 ∧ (s.setHardFlag h).ifs = s.ifs ∧ (s.setHardFlag h).iec = s.iec ∧
    (s.setHardFlag h).ipc = s.ipc ∧ (s.setHardFlag h).inttreg = s.inttreg ∧ (s.setHardFlag h).disicnt = s.disicnt ∧
    (s.setHardFlag h).rcon = s.rcon ∧ (s.setHardFlag h).osccon = s.osccon ∧ (s.setHardFlag h).mstrpr = s.mstrpr ∧
    (s.setHardFlag h).dsrPage = s.dsrPage ∧ (s.setHardFlag h).dswPage = s.dswPage ∧
    (s.setHardFlag h).bdtp1 = s.bdtp1 ∧ (s.setHardFlag h).bdtp2 = s.bdtp2 ∧ (s.setHardFlag h).bdtp3 = s.bdtp3 ∧
    (s.setHardFlag h).accA = s.accA ∧ (s.setHardFlag h).accB = s.accB ∧ (s.setHardFlag h).doStack = s.doStack ∧
    (s.setHardFlag h).rpt = s.rpt ∧ (s.setHardFlag h).gieSeen = s.gieSeen ∧ (s.setHardFlag h).lag = s.lag ∧
    (s.setHardFlag h).power = s.power ∧ (s.setHardFlag h).skid = s.skid ∧ (s.setHardFlag h).mem = s.mem ∧
    (s.setHardFlag h).prog = s.prog ∧ (s.setHardFlag h).agenda = s.agenda ∧
    (s.setHardFlag h).meanwhile = s.meanwhile ∧ (s.setHardFlag h).readOut = s.readOut ∧
    (s.setHardFlag h).draws = s.draws := by
    cases h <;> exact ⟨rfl, rfl, rfl, rfl, rfl, rfl, rfl, rfl, rfl, rfl, rfl, rfl, rfl, rfl, rfl, rfl, rfl, rfl, rfl,
      rfl, rfl, rfl, rfl, rfl, rfl, rfl, rfl, rfl, rfl, rfl, rfl, rfl, rfl, rfl, rfl, rfl⟩

/-! ### The updated fields -/

@[simp] theorem State.setPc_pc (s : State) (a : PAddr) : (s.setPc a).pc = a &&& 0x7FFFFE#24 := rfl
@[simp] theorem State.setReg_w (s : State) (i : Fin 16) (v : Word) : (s.setReg i v).w = s.w.set i.val v i.isLt := rfl
@[simp] theorem State.setIpl_sr (s : State) (l : Nat) :
    (s.setIpl l).sr = mergeBits s.sr 0x00E0#16 (BitVec.ofNat 16 (32 * l)) := rfl
@[simp] theorem State.setSrl_sr (s : State) (v : Byte) : (s.setSrl v).sr = mergeBits s.sr 0x00FF#16 (v.zeroExtend 16) := rfl
@[simp] theorem State.setRepeatActive_sr (s : State) (b : Bool) : (s.setRepeatActive b).sr = setBit s.sr 4 b := rfl
@[simp] theorem State.setIpl3_corcon (s : State) (b : Bool) : (s.setIpl3 b).corcon = setBit s.corcon 3 b := rfl
@[simp] theorem State.setSfa_corcon (s : State) (b : Bool) : (s.setSfa b).corcon = setBit s.corcon 2 b := rfl
@[simp] theorem State.setDoLevel_corcon (s : State) (l : Nat) :
    (s.setDoLevel l).corcon = mergeBits s.corcon 0x0700#16 (BitVec.ofNat 16 (256 * l)) := rfl
@[simp] theorem State.setDisiBit_intcon2 (s : State) (b : Bool) : (s.setDisiBit b).intcon2 = setBit s.intcon2 14 b := rfl
@[simp] theorem State.writeByte_mem (s : State) (a : Nat) (v : Byte) : (s.writeByte a v).mem = cellSet s.mem a v := rfl
@[simp] theorem State.clearLag_lag (s : State) : s.clearLag.lag = { gie := none, masks := [] } := rfl
@[simp] theorem State.rememberMask_lag (s : State) (old : MaskOld) :
    (s.rememberMask old).lag = { gie := s.lag.gie, masks := old :: s.lag.masks } := rfl
@[simp] theorem State.dropCleared_masks (s : State) :
    s.dropCleared.lag.masks = s.lag.masks.map (MaskOld.dropCleared s) := rfl
@[simp] theorem State.draw_draws (s : State) : s.draw.2.draws = s.draws + 1 := rfl
@[simp] theorem State.drawBool_draws (s : State) : s.drawBool.2.draws = s.draws + 1 := rfl
@[simp] theorem State.drawWord_draws (s : State) : s.drawWord.2.draws = s.draws + 1 := rfl
@[simp] theorem State.setRegFree_w (s : State) (i : Fin 16) :
    (s.setRegFree i).w = s.w.set i.val s.drawWord.1 i.isLt := rfl
@[simp] theorem State.setSrFree_sr (s : State) (m : Word) : (s.setSrFree m).sr = mergeBits s.sr m s.drawWord.1 := rfl

end Sys2Proof.Machine
end

