-- ==== Sys2Proof/Laws/Words.lean ====
section
/-! SUPPORT. What the bit and field helpers of Machine/Flags.lean do, bit by bit, and what the accessors read after them. -/

namespace Sys2Proof.Machine

theorem setBit_getLsbD (v : Word) (i j : Nat) (b : Bool) (hi : i < 16) :
    (setBit v i b).getLsbD j = if j = i then b else v.getLsbD j := by
  unfold setBit
  cases b <;> by_cases h : j = i
  · subst h; simp [hi]
  · simp only [Bool.false_eq_true, if_false, h]
    simp only [BitVec.getLsbD_and, BitVec.getLsbD_not, BitVec.getLsbD_shiftLeft, BitVec.getLsbD_one]
    by_cases hj : j < 16
    · have : (decide (j < i) || !decide (j - i = 0)) = true := by
        rcases Nat.lt_or_gt_of_ne h with h' | h'
        · simp [h']
        · simp; right; omega
      by_cases hji : j < i
      · simp [hj, hji]
      · have h0 : ¬ (j - i = 0) := by omega
        simp [hj, hji, h0]
    · simp [BitVec.getLsbD_of_ge v j (by omega)]
  · subst h; simp [hi]
  · simp only [if_true, h, if_false]
    simp only [BitVec.getLsbD_or, BitVec.getLsbD_shiftLeft, BitVec.getLsbD_one]
    by_cases hji : j < i
    · simp [hji]
    · have h0 : ¬ (j - i = 0) := by omega
      simp [h0]

theorem setBit_getElem (v : Word) (i j : Nat) (b : Bool) (hi : i < 16) (hj : j < 16) :
    (setBit v i b)[j] = if j = i then b else v[j] := by
  have := setBit_getLsbD v i j b hi
  rwa [BitVec.getLsbD_eq_getElem hj, BitVec.getLsbD_eq_getElem hj] at this

theorem mergeBits_getLsbD (old m v : Word) (j : Nat) :
    (mergeBits old m v).getLsbD j = if m.getLsbD j then v.getLsbD j else old.getLsbD j := by
  unfold mergeBits
  by_cases hj : j < 16
  · rw [BitVec.getLsbD_or, BitVec.getLsbD_and, BitVec.getLsbD_and, BitVec.getLsbD_not]
    cases m.getLsbD j <;> simp [hj]
  · simp [BitVec.getLsbD_of_ge _ j (Nat.le_of_not_lt hj)]

theorem mergeBits_getElem (old m v : Word) (j : Nat) (hj : j < 16) :
    (mergeBits old m v)[j] = if m[j] then v[j] else old[j] := by
  have := mergeBits_getLsbD old m v j
  rwa [BitVec.getLsbD_eq_getElem hj, BitVec.getLsbD_eq_getElem hj, BitVec.getLsbD_eq_getElem hj,
    BitVec.getLsbD_eq_getElem hj] at this

/-- The access types of R7, bit by bit: an R/W bit under the mask takes the value, an R/C bit under the mask is cleared
by a 0, every other bit keeps. -/
theorem writeBits_getLsbD (old rw rc m v : Word) (j : Nat) :
    (writeBits old rw rc m v).getLsbD j =
      ((if m.getLsbD j && rw.getLsbD j then v.getLsbD j else old.getLsbD j)
        && !(rc.getLsbD j && m.getLsbD j && !v.getLsbD j)) := by
  unfold writeBits
  by_cases hj : j < 16
  · rw [BitVec.getLsbD_and, mergeBits_getLsbD, BitVec.getLsbD_not, BitVec.getLsbD_and, BitVec.getLsbD_and,
      BitVec.getLsbD_and, BitVec.getLsbD_not]
    simp [hj]
  · simp [BitVec.getLsbD_of_ge _ j (Nat.le_of_not_lt hj)]

/-! ### The accessors after an update -/

@[simp] theorem State.setIpl3_ipl3 (s : State) (b : Bool) : (s.setIpl3 b).ipl3 = b := by
  simp [State.ipl3, State.setIpl3, setBit_getElem]

@[simp] theorem State.setIpl3_sfa (s : State) (b : Bool) : (s.setIpl3 b).sfa = s.sfa := by
  simp [State.sfa, State.setIpl3, setBit_getElem]

@[simp] theorem State.setSfa_sfa (s : State) (b : Bool) : (s.setSfa b).sfa = b := by
  simp [State.sfa, State.setSfa, setBit_getElem]

@[simp] theorem State.setSfa_ipl3 (s : State) (b : Bool) : (s.setSfa b).ipl3 = s.ipl3 := by
  simp [State.ipl3, State.setSfa, setBit_getElem]

@[simp] theorem State.setDoLevel_ipl3 (s : State) (l : Nat) : (s.setDoLevel l).ipl3 = s.ipl3 := by
  simp [State.ipl3, State.setDoLevel, mergeBits_getElem]

@[simp] theorem State.setDisiBit_disiBit (s : State) (b : Bool) : (s.setDisiBit b).disiBit = b := by
  simp [State.disiBit, State.setDisiBit, setBit_getElem]

@[simp] theorem State.setDisiBit_gie (s : State) (b : Bool) : (s.setDisiBit b).gie = s.gie := by
  simp [State.gie, State.setDisiBit, setBit_getElem]

@[simp] theorem State.setRepeatActive_repeatActive (s : State) (b : Bool) :
    (s.setRepeatActive b).repeatActive = b := by
  simp [State.repeatActive, State.setRepeatActive, setBit_getElem]

/-- IPL<2:0> reads back the low three bits of what was written. -/
@[simp] theorem State.setIpl_ipl (s : State) (l : Nat) : (s.setIpl l).ipl = l % 8 := by
  have h : (s.setIpl l).sr.extractLsb' 5 3 = BitVec.ofNat 3 l := by
    apply BitVec.eq_of_getLsbD_eq
    intro i hi
    have h3 : i < 3 := hi
    have hm : (0x00E0#16).getLsbD (5 + i) = true := by
      have : i = 0 ∨ i = 1 ∨ i = 2 := by omega
      rcases this with rfl | rfl | rfl <;> decide
    have he : (32 * l) = 2 ^ 5 * l := by norm_num
    simp only [State.setIpl, BitVec.getLsbD_extractLsb', mergeBits_getLsbD, hm, if_true, h3, decide_true, Bool.true_and]
    rw [BitVec.getLsbD_ofNat, BitVec.getLsbD_ofNat, he, Nat.testBit_two_pow_mul]
    have : (5 + i) < 16 := by omega
    simp [this, h3]
  rw [State.ipl, h, BitVec.toNat_ofNat]

@[simp] theorem State.setIpl_srHigh (s : State) (l j : Nat) (hj : 8 ≤ j) : (s.setIpl l).sr.getLsbD j = s.sr.getLsbD j := by
  by_cases h : j < 16
  · have : (0x00E0#16).getLsbD j = false := by
      have : j = 8 ∨ j = 9 ∨ j = 10 ∨ j = 11 ∨ j = 12 ∨ j = 13 ∨ j = 14 ∨ j = 15 := by omega
      rcases this with rfl | rfl | rfl | rfl | rfl | rfl | rfl | rfl <;> decide
    rw [State.setIpl_sr, mergeBits_getLsbD, this]; rfl
  · simp [BitVec.getLsbD_of_ge _ j (Nat.le_of_not_lt h)]

theorem State.ipl_lt (s : State) : s.ipl < 8 := by
  simpa [State.ipl] using (s.sr.extractLsb' 5 3).isLt

/-- `cpu_ipl` is 8 or more exactly while IPL3 is 1 (R28). -/
theorem State.ipl3_iff_cpuIpl (s : State) : s.ipl3 = true ↔ 8 ≤ s.cpuIpl := by
  have := s.ipl_lt
  unfold State.cpuIpl
  cases s.ipl3
  · simp; omega
  · simp

theorem State.cpuIpl_lt (s : State) : s.cpuIpl < 16 := by
  have := s.ipl_lt
  unfold State.cpuIpl
  split <;> omega

end Sys2Proof.Machine
end

