-- ==== Sys2Proof/Laws/Ops.lean ====
section
/-! SUPPORT. One lemma per shared operation of Machine/Ops.lean that says everything it can do: how operations follow one
another, moving `pc` on, a device Reset, raising traps, writing a register, a data write, the pushes and pops, the DISI
countdown, what an entry does after its pushes. -/

namespace Sys2Proof.Machine

/-! ### Operations one after the other -/

@[simp] theorem Flow.bind_go (s : State) (k : State → Flow) : (Flow.go s).bind k = k s := rfl
@[simp] theorem Flow.bind_cut (s : State) (k : State → Flow) : (Flow.cut s).bind k = .cut s := rfl
@[simp] theorem Flow.bind_fault (f : Fault) (k : State → Flow) : (Flow.fault f).bind k = .fault f := rfl
@[simp] theorem Flow.bind_refused (r : Refusal) (k : State → Flow) : (Flow.refused r).bind k = .refused r := rfl
@[simp] theorem Flow.outcome_go (s : State) : (Flow.go s).outcome = .next s := rfl
@[simp] theorem Flow.outcome_cut (s : State) : (Flow.cut s).outcome = .next s := rfl
@[simp] theorem Flow.outcome_fault (f : Fault) : (Flow.fault f).outcome = .fault f := rfl
@[simp] theorem Flow.outcome_refused (r : Refusal) : (Flow.refused r).outcome = .refused r := rfl
@[simp] theorem Flow.thenAdvance_go (s : State) : (Flow.go s).thenAdvance = .next (s.advance 1) := rfl
@[simp] theorem Flow.thenAdvance_cut (s : State) : (Flow.cut s).thenAdvance = .next s := rfl
@[simp] theorem Flow.thenAdvance_fault (f : Fault) : (Flow.fault f).thenAdvance = .fault f := rfl
@[simp] theorem Flow.thenAdvance_refused (r : Refusal) : (Flow.refused r).thenAdvance = .refused r := rfl

/-- A run goes on after two operations when it goes on after each. -/
theorem Flow.bind_eq_go (f : Flow) (k : State → Flow) (t : State) :
    f.bind k = .go t ↔ ∃ s, f = .go s ∧ k s = .go t := by
  cases f <;> simp

/-- A Reset cuts two operations short when it cuts the first, or the second after the first went on. -/
theorem Flow.bind_eq_cut (f : Flow) (k : State → Flow) (t : State) :
    f.bind k = .cut t ↔ f = .cut t ∨ ∃ s, f = .go s ∧ k s = .cut t := by
  cases f <;> simp

/-- An operation ends a step in a next state when it goes on there or a Reset led there. -/
theorem Flow.outcome_eq_next (f : Flow) (t : State) : f.outcome = .next t ↔ f = .go t ∨ f = .cut t := by
  cases f <;> simp [Flow.outcome]

/-- An operation ends an instruction in a next state when a Reset led there, or the run went on and `pc` moved on. -/
theorem Flow.thenAdvance_eq_next (f : Flow) (t : State) :
    f.thenAdvance = .next t ↔ f = .cut t ∨ ∃ s, f = .go s ∧ s.advance 1 = t := by
  cases f <;> simp

/-- A property that an operation leaves behind, whether the run goes on or a Reset cut it short. -/
def Flow.Leaves (P : State → Prop) : Flow → Prop
  | .go s | .cut s => P s
  | .fault _ | .refused _ => True

/-- Two operations leave what each leaves. -/
theorem Flow.Leaves.bind {P : State → Prop} {f : Flow} {k : State → Flow} (hf : f.Leaves P)
    (hk : ∀ s, P s → (k s).Leaves P) : (f.bind k).Leaves P := by
  cases f with
  | go s => exact hk s hf
  | cut s => exact hf
  | fault e => trivial
  | refused r => trivial

theorem Flow.Leaves.next {P : State → Prop} {f : Flow} {t : State} (hf : f.Leaves P) (h : f.outcome = .next t) : P t := by
  rcases (Flow.outcome_eq_next f t).mp h with rfl | rfl <;> exact hf

/-! ### The Program Counter -/

/-- Two words are equal when their bits are. -/
theorem word_ext {n : Nat} {x y : BitVec n} (h : ∀ j, j < n → x.getLsbD j = y.getLsbD j) : x = y :=
  BitVec.eq_of_getLsbD_eq h

theorem pc_even (a : PAddr) : a.getLsbD 0 = false ↔ a.toNat % 2 = 0 := by
  rw [BitVec.getLsbD, Nat.testBit_zero]; simp

/-- An even address below 0x800000 passes the mask of `setPc` unchanged. -/
theorem mask_aligned (a : PAddr) (h0 : a.getLsbD 0 = false) (h23 : a.getLsbD 23 = false) : a &&& 0x7FFFFE#24 = a := by
  apply word_ext
  intro j hj
  rw [BitVec.getLsbD_and]
  interval_cases j <;> first | (rw [h0]; rfl) | (rw [h23]; rfl) | simp

theorem bit23_of_lt (a : PAddr) (h : a.toNat < 0x800000) : a.getLsbD 23 = false := by
  rw [BitVec.getLsbD]; exact Nat.testBit_lt_two_pow h

theorem lt_of_bit23 (a : PAddr) (h : a.getLsbD 23 = false) : a.toNat < 0x800000 := by
  have := a.isLt
  rw [BitVec.getLsbD, Nat.testBit_eq_decide_div_mod_eq] at h
  simp at h
  omega

/-- What `setPc` loads is an even address below 0x800000. -/
theorem State.setPc_aligned (s : State) (a : PAddr) : (s.setPc a).pcAligned := by
  constructor
  · rw [State.setPc_pc, BitVec.getLsbD_and]; simp
  · apply lt_of_bit23; rw [State.setPc_pc, BitVec.getLsbD_and]; simp

/-- `setPc` of an address loads it. -/
theorem State.setPc_of_aligned (s : State) (a : PAddr) (h0 : a.getLsbD 0 = false) (h23 : a.getLsbD 23 = false) :
    s.setPc a = { s with pc := a } := by
  unfold State.setPc; rw [mask_aligned a h0 h23]

/-- Sequential execution inside program space. -/
theorem State.advance_room (s : State) (n : Nat) (h : s.roomAfter n) :
    s.advance n = { s with pc := s.pc + BitVec.ofNat 24 (2 * n) } := by
  obtain ⟨⟨h0, hlt⟩, hr⟩ := h
  have hc : (0 : Int) ≤ (s.pc.toNat : Int) + (2 * (n : Int)) ∧ (s.pc.toNat : Int) + (2 * (n : Int)) < 0x800000 := by
    constructor <;> omega
  have he : BitVec.ofNat 24 ((s.pc.toNat : Int) + (2 * (n : Int))).toNat = s.pc + BitVec.ofNat 24 (2 * n) := by
    apply BitVec.eq_of_toNat_eq
    rw [BitVec.toNat_ofNat, BitVec.toNat_add, BitVec.toNat_ofNat]
    have : ((s.pc.toNat : Int) + (2 * (n : Int))).toNat = s.pc.toNat + 2 * n := by omega
    rw [this]; omega
  unfold State.advance State.pcPlus
  rw [if_pos hc, he]
  apply State.setPc_of_aligned
  · rw [pc_even] at h0 ⊢
    rw [BitVec.toNat_add, BitVec.toNat_ofNat]; omega
  · apply bit23_of_lt
    rw [BitVec.toNat_add, BitVec.toNat_ofNat]; omega

/-- Sequential execution writes only `pc`, and draws at most one free value. -/
theorem State.advance_frame (s : State) (n : Nat) :
    s.advance n = { s with pc := (s.advance n).pc, draws := (s.advance n).draws } ∧ (s.advance n).pcAligned := by
  unfold State.advance State.pcPlus
  split
  · exact ⟨rfl, State.setPc_aligned _ _⟩
  · exact ⟨rfl, State.setPc_aligned _ _⟩

/-- Sequential execution past the top of program space takes a free address. -/
theorem State.advance_wraps (s : State) (n : Nat) (ha : s.pcAligned) (h : ¬ s.roomAfter n) :
    s.advance n = { s with pc := (s.advance n).pc, draws := s.draws + 1 } := by
  have hc : ¬ ((0 : Int) ≤ (s.pc.toNat : Int) + (2 * (n : Int)) ∧ (s.pc.toNat : Int) + (2 * (n : Int)) < 0x800000) := by
    intro hc; exact h ⟨ha, by omega⟩
  unfold State.advance State.pcPlus
  rw [if_neg hc]; rfl

/-! ### Reset and trap events -/

/-- A device Reset is one. -/
theorem State.deviceReset_justReset (s : State) (b : Bool) : (s.deviceReset b).justReset := ⟨s, b, rfl⟩

theorem State.deviceReset_trapr (s : State) : (s.deviceReset true).rcon.getLsbD 15 = true := by
  show (mergeBits s.drawWord.1 0x8000#16 0x8000#16).getLsbD 15 = true
  rw [mergeBits_getLsbD]; rfl

theorem State.deviceReset_keeps_trapr (s : State) : (s.deviceReset false).rcon.getLsbD 15 = s.rcon.getLsbD 15 := by
  show (mergeBits s.drawWord.1 0x8000#16 s.rcon).getLsbD 15 = _
  rw [mergeBits_getLsbD]; rfl

theorem mem_trapsByLevel (t : Trap) : t ∈ trapsByLevel := by cases t <;> decide

/-- Hard trap conflict, as R272 words it: a trap that an earlier access of the same instruction raised counts as the draw
says (R279). -/
theorem State.hardConflict_earlier (s : State) (h : Trap) (e : Earlier) :
    s.hardConflict h e = true ↔
      (∃ t, t ∉ e.traps ∧ s.trapPending t = true ∧ s.trapLevel h < s.trapLevel t) ∨ s.trapLevel h < s.cpuIpl
        ∨ (s.cpuIpl = s.trapLevel h ∧ s.cfg.sameLevel = .reset) ∨ e.clash = true := by
  unfold State.hardConflict
  simp only [Bool.or_eq_true, List.any_eq_true, Bool.and_eq_true, decide_eq_true_eq, or_assoc, Bool.not_eq_true',
    and_assoc, ← Bool.not_eq_true, List.contains_iff_mem]
  exact or_congr ⟨fun ⟨t, _, h1⟩ => ⟨t, h1⟩, fun ⟨t, h1⟩ => ⟨t, mem_trapsByLevel t, h1⟩⟩ Iff.rfl

/-- Hard trap conflict of the first event of an instruction. -/
theorem State.hardConflict_iff (s : State) (h : Trap) :
    s.hardConflict h = true ↔
      (∃ t, s.trapPending t = true ∧ s.trapLevel h < s.trapLevel t) ∨ s.trapLevel h < s.cpuIpl
        ∨ (s.cpuIpl = s.trapLevel h ∧ s.cfg.sameLevel = .reset) := by
  rw [State.hardConflict_earlier]; simp [Earlier.none]

/-- The bits of INTCON1 the trap events of an access set. -/
def accessBits (cs : List Cause) : Word :=
  (if Cause.stack ∈ cs then 0x0004#16 else 0#16) ||| (if Cause.address ∈ cs then 0x0008#16 else 0#16)

/-- Only stack and address errors: what the access checks raise. -/
def AccessCauses (cs : List Cause) : Prop := ∀ c ∈ cs, c = .stack ∨ c = .address

theorem accessBits_getLsbD (cs : List Cause) (j : Nat) :
    (accessBits cs).getLsbD j = (decide (j = 2 ∧ Cause.stack ∈ cs) || decide (j = 3 ∧ Cause.address ∈ cs)) := by
  have h4 : (0x0004#16).getLsbD j = decide (j = 2) := by
    by_cases hj : j < 16
    · interval_cases j <;> rfl
    · rw [BitVec.getLsbD_of_ge _ j (by omega)]; simp; omega
  have h8 : (0x0008#16).getLsbD j = decide (j = 3) := by
    by_cases hj : j < 16
    · interval_cases j <;> rfl
    · rw [BitVec.getLsbD_of_ge _ j (by omega)]; simp; omega
  unfold accessBits
  rw [BitVec.getLsbD_or]
  by_cases h1 : Cause.stack ∈ cs <;> by_cases h2 : Cause.address ∈ cs <;> simp [h1, h2, h4, h8]

/-- A stack error that becomes pending makes no hard trap conflict for the address error, whose level is higher. -/
theorem hardConflict_address_intcon1 (s : State) (v : Word) (e : Earlier) (h1 : v.getLsbD 1 = s.intcon1.getLsbD 1) :
    { s with intcon1 := v }.hardConflict .address e = s.hardConflict .address e := by
  rw [Bool.eq_iff_iff, State.hardConflict_earlier, State.hardConflict_earlier]
  have key (x y : State) (hc : y.cfg = x.cfg) (h4 : y.intcon4 = x.intcon4)
      (h1 : y.intcon1.getLsbD 1 = x.intcon1.getLsbD 1) :
      (∃ t, t ∉ e.traps ∧ x.trapPending t = true ∧ x.trapLevel .address < x.trapLevel t) →
        ∃ t, t ∉ e.traps ∧ y.trapPending t = true ∧ y.trapLevel .address < y.trapLevel t := by
    rintro ⟨t, hn, hp, hl⟩
    refine ⟨t, hn, ?_, ?_⟩
    · cases t <;> simp only [State.trapLevel, State.trapPending] at hp hl ⊢ <;> try omega
      · rw [h1]; exact hp
      · rw [h4]; exact hp
      · split at hl <;> omega
    · cases t <;> simp only [State.trapLevel] at hl ⊢ <;> try omega
      split at hl <;> omega
  refine or_congr ⟨key _ _ rfl rfl h1.symm, key _ _ rfl rfl h1⟩ Iff.rfl

theorem raiseHard_address (s : State) (e : Earlier) :
    raiseHard .address s e = if s.trapPending .address then .go s
      else if s.hardConflict .address e then .cut (s.deviceReset true)
      else .go { s with intcon1 := s.intcon1 ||| 0x0008#16 } := rfl

/-- Everything the trap events of an access can do: the status bits are set and nothing else changes, or an address error
whose flag was 0 makes a hard trap conflict and the device is reset. -/
theorem raiseAll_access (cs : List Cause) (s : State) (hc : AccessCauses cs) (earlier : Earlier := .none) :
    raiseAll cs s earlier = .go { s with intcon1 := s.intcon1 ||| accessBits cs }
      ∨ (∃ v, raiseAll cs s earlier = .cut (State.deviceReset { s with intcon1 := v } true)
          ∧ s.hardConflict .address earlier = true ∧ Cause.address ∈ cs ∧ s.trapPending .address = false) := by
  induction cs generalizing s with
  | nil => left; simp [raiseAll, accessBits]
  | cons c cs ih =>
    have hcs : AccessCauses cs := fun d hd => hc d (List.mem_cons_of_mem _ hd)
    rcases hc c List.mem_cons_self with rfl | rfl
    · have e : raiseAll (.stack :: cs) s earlier = raiseAll cs { s with intcon1 := s.intcon1 ||| 0x0004#16 } earlier := rfl
      have hb : (s.intcon1 ||| 0x0004#16).getLsbD 1 = s.intcon1.getLsbD 1 := by rw [BitVec.getLsbD_or]; simp
      rw [e]
      rcases ih { s with intcon1 := s.intcon1 ||| 0x0004#16 } hcs with h | ⟨v, h, hk, ha, hp⟩
      · left
        rw [h]
        have : s.intcon1 ||| 0x0004#16 ||| accessBits cs = s.intcon1 ||| accessBits (.stack :: cs) := by
          apply word_ext; intro j _
          simp only [BitVec.getLsbD_or, accessBits_getLsbD]
          by_cases h2 : j = 2
          · subst h2; simp
          · have : (0x0004#16).getLsbD j = false := by
              by_cases hj : j < 16
              · interval_cases j <;> first | rfl | exact absurd rfl h2
              · exact BitVec.getLsbD_of_ge _ j (by omega)
            simp [this, h2]
        simp only [this]
      · right
        refine ⟨v, h, ?_, List.mem_cons_of_mem _ ha, ?_⟩
        · rw [hardConflict_address_intcon1 s _ _ hb] at hk; exact hk
        · have h3 : (s.intcon1 ||| 0x0004#16).getLsbD 3 = false := hp
          rw [BitVec.getLsbD_or] at h3
          simp only [Bool.or_eq_false_iff] at h3
          exact h3.1
    · have e : raiseAll (.address :: cs) s earlier =
          (raiseHard .address s earlier).bind fun s1 => raiseAll cs s1 earlier := rfl
      have hor (x : Word) (hx : x ||| 0x0008#16 = s.intcon1 ||| 0x0008#16) :
          x ||| accessBits cs = s.intcon1 ||| accessBits (.address :: cs) ∨ x.getLsbD 3 = false := by
        by_cases h3 : x.getLsbD 3 = true
        · left
          apply word_ext; intro j hj
          have hxj := congrArg (·.getLsbD j) hx
          simp only [BitVec.getLsbD_or] at hxj ⊢
          simp only [accessBits_getLsbD]
          by_cases hj3 : j = 3
          · subst hj3; simp [h3]
          · have : (0x0008#16).getLsbD j = false := by
              interval_cases j <;> first | rfl | exact absurd rfl hj3
            rw [this] at hxj
            simp only [Bool.or_false] at hxj
            simp [hxj, hj3]
        · right; simpa using h3
      rw [e, raiseHard_address]
      split
      · rename_i hp
        show raiseAll cs s earlier = _ ∨ _
        rcases ih s hcs with h | ⟨v, h, hk, ha, hq⟩
        · left
          rw [h]
          rcases hor s.intcon1 rfl with h1 | h1
          · rw [h1]
          · have : s.intcon1.getLsbD 3 = true := hp
            rw [this] at h1; cases h1
        · exact absurd hp (by rw [hq]; simp)
      · rename_i hp
        split
        · rename_i hk
          right
          exact ⟨s.intcon1, rfl, hk, List.mem_cons_self, by simpa using hp⟩
        · show raiseAll cs { s with intcon1 := s.intcon1 ||| 0x0008#16 } earlier = _ ∨ _
          rcases ih { s with intcon1 := s.intcon1 ||| 0x0008#16 } hcs with h | ⟨v, h, hk, ha, hq⟩
          · left
            rw [h]
            rcases hor (s.intcon1 ||| 0x0008#16) (by rw [BitVec.or_assoc]; simp) with h1 | h1
            · simp only [h1]
            · rw [BitVec.getLsbD_or] at h1; simp at h1
          · have h1 : (s.intcon1 ||| 0x0008#16).getLsbD 3 = false := hq
            rw [BitVec.getLsbD_or] at h1; simp at h1

/-- What raising trap events leaves where no Reset follows: status bits are set in the registers the events name, and nothing
else changes. -/
structure Raised (cs : List Cause) (s u : State) : Prop where
  rest : u = { s with intcon1 := u.intcon1, intcon3 := u.intcon3, intcon4 := u.intcon4 }
  grow1 : ∃ a, u.intcon1 = s.intcon1 ||| a
  grow3 : ∃ a, u.intcon3 = s.intcon3 ||| a
  grow4 : ∃ a, u.intcon4 = s.intcon4 ||| a
  keep1 : (∀ c ∈ cs, c = .genericHard) → u.intcon1 = s.intcon1
  keep3 : (∀ c ∈ cs, ∀ d, c ≠ .genericSoft d) → u.intcon3 = s.intcon3
  keep4 : (∀ c ∈ cs, c ≠ .genericHard) → u.intcon4 = s.intcon4

/-- Everything raising trap events can do: the run goes on, or one of them makes a hard trap conflict (R272). -/
theorem raiseAll_cases (cs : List Cause) (s : State) (earlier : Earlier := .none) :
    ∃ u, Raised cs s u ∧ (raiseAll cs s earlier = .go u ∨ raiseAll cs s earlier = .cut (u.deviceReset true)) := by
  have zero (x : Word) : ∃ a, x = x ||| a := ⟨0#16, by simp⟩
  have same (cs : List Cause) (s : State) : Raised cs s s :=
    ⟨rfl, zero _, zero _, zero _, fun _ => rfl, fun _ => rfl, fun _ => rfl⟩
  have one (c : Cause) (s : State) :
      ∃ u, Raised [c] s u ∧ (raiseCause c s earlier = .go u ∨ raiseCause c s earlier = .cut (u.deviceReset true)) := by
    have hard (h : Trap) (c : Cause) (hc : Raised [c] s (s.setHardFlag h)) :
        ∃ u, Raised [c] s u ∧ (raiseHard h s earlier = .go u ∨ raiseHard h s earlier = .cut (u.deviceReset true)) := by
      unfold raiseHard
      split
      · exact ⟨s, same _ _, .inl rfl⟩
      · split
        · exact ⟨s, same _ _, .inr rfl⟩
        · exact ⟨_, hc, .inl rfl⟩
    cases c with
    | oscillator => exact hard .oscillator _ ⟨rfl, ⟨_, rfl⟩, zero _, zero _, by simp, fun _ => rfl, fun _ => rfl⟩
    | address => exact hard .address _ ⟨rfl, ⟨_, rfl⟩, zero _, zero _, by simp, fun _ => rfl, fun _ => rfl⟩
    | genericHard => exact hard .genericHard _ ⟨rfl, zero _, zero _, ⟨_, rfl⟩, fun _ => rfl, fun _ => rfl, by simp⟩
    | stack => refine ⟨_, ?_, .inl rfl⟩; exact ⟨rfl, ⟨_, rfl⟩, zero _, zero _, by simp, fun _ => rfl, fun _ => rfl⟩
    | math d => refine ⟨_, ?_, .inl rfl⟩; exact ⟨rfl, ⟨_, rfl⟩, zero _, zero _, by simp, fun _ => rfl, fun _ => rfl⟩
    | dmac => refine ⟨_, ?_, .inl rfl⟩; exact ⟨rfl, ⟨_, rfl⟩, zero _, zero _, by simp, fun _ => rfl, fun _ => rfl⟩
    | genericSoft d => refine ⟨_, ?_, .inl rfl⟩; exact ⟨rfl, zero _, ⟨_, rfl⟩, zero _, by simp, by simp, fun _ => rfl⟩
  have weaken (c : Cause) (cs : List Cause) (s u : State) (h : Raised [c] s u) : Raised (c :: cs) s u :=
    ⟨h.rest, h.grow1, h.grow3, h.grow4, fun k => h.keep1 (by simpa using k c List.mem_cons_self),
      fun k => h.keep3 (by simpa using k c List.mem_cons_self), fun k => h.keep4 (by simpa using k c List.mem_cons_self)⟩
  induction cs generalizing s with
  | nil => exact ⟨s, same _ _, .inl rfl⟩
  | cons c cs ih =>
    have e : raiseAll (c :: cs) s earlier = (raiseCause c s earlier).bind fun s1 => raiseAll cs s1 earlier := rfl
    obtain ⟨u, hr, hu | hu⟩ := one c s
    · obtain ⟨x, hx, hk⟩ := ih u
      have hw := weaken c cs s u hr
      obtain ⟨⟨a1, h1⟩, ⟨a3, h3⟩, ⟨a4, h4⟩⟩ := And.intro hr.grow1 (And.intro hr.grow3 hr.grow4)
      obtain ⟨⟨b1, k1⟩, ⟨b3, k3⟩, ⟨b4, k4⟩⟩ := And.intro hx.grow1 (And.intro hx.grow3 hx.grow4)
      refine ⟨x, ⟨?_, ⟨a1 ||| b1, ?_⟩, ⟨a3 ||| b3, ?_⟩, ⟨a4 ||| b4, ?_⟩, fun k => ?_, fun k => ?_, fun k => ?_⟩, ?_⟩
      · rw [hx.rest, hr.rest]
      · rw [k1, h1, BitVec.or_assoc]
      · rw [k3, h3, BitVec.or_assoc]
      · rw [k4, h4, BitVec.or_assoc]
      · rw [hx.keep1 (fun d hd => k d (List.mem_cons_of_mem _ hd)), hw.keep1 k]
      · rw [hx.keep3 (fun d hd => k d (List.mem_cons_of_mem _ hd)), hw.keep3 k]
      · rw [hx.keep4 (fun d hd => k d (List.mem_cons_of_mem _ hd)), hw.keep4 k]
      · rw [e, hu]; exact hk
    · exact ⟨u, weaken c cs s u hr, .inr (by rw [e, hu]; rfl)⟩

/-- A list of trap events without a hard trap makes no conflict. -/
theorem raiseAll_access_go (cs : List Cause) (s : State) (hc : AccessCauses cs) (ha : Cause.address ∉ cs)
    (earlier : Earlier := .none) :
    raiseAll cs s earlier = .go { s with intcon1 := s.intcon1 ||| accessBits cs } := by
  rcases raiseAll_access cs s hc earlier with h | ⟨v, -, -, h, -⟩
  · exact h
  · exact absurd h ha

/-- The first hard trap event of an instruction needs no order. -/
@[simp] theorem State.drawEarlier_nil (s : State) : s.drawEarlier [] = (.none, s) := rfl

/-- The draw that orders hard trap events changes the draw counter only. -/
theorem State.drawEarlier_frame (s : State) (traps : List Trap) :
    (s.drawEarlier traps).2 = { s with draws := (s.drawEarlier traps).2.draws } := by cases traps <;> rfl

/-- No hard trap event lies between two states with the same hard trap flags. -/
theorem State.hardSince_nil (s t : State)
    (h : ∀ u, u = .oscillator ∨ u = .address ∨ u = .genericHard → t.trapPending u = s.trapPending u) : s.hardSince t = [] := by
  unfold State.hardSince
  rw [List.filter_eq_nil_iff]
  intro u hu
  rw [h u (by simpa [hardTraps] using hu)]
  simp

/-- No events wait for a data access. -/
theorem State.meet_idle (s : State) (h : s.meanwhile = []) : s.meet = .go s := by unfold State.meet; rw [h]

/-! ### What the access checks raise -/

theorem accessCauses_append {a b : List Cause} (ha : AccessCauses a) (hb : AccessCauses b) : AccessCauses (a ++ b) := by
  intro c hc
  rcases List.mem_append.mp hc with h | h
  · exact ha c h
  · exact hb c h

theorem stackCauses_access (s : State) (ea : Word) (w : Bool) : AccessCauses (s.stackCauses ea w) := by
  intro c hc; unfold State.stackCauses at hc; split at hc <;> simp_all

theorem readCauses_access (s : State) (ea : Word) (w : Bool) : AccessCauses (s.readCauses ea w) := by
  intro c hc; unfold State.readCauses at hc; split at hc <;> simp_all

theorem writeCauses_access (s : State) (ea : Word) (w : Bool) : AccessCauses (s.writeCauses ea w) := by
  intro c hc; unfold State.writeCauses at hc; split at hc <;> (try split at hc) <;> simp_all

theorem stackCauses_nil (s : State) (ea : Word) (h1 : 0x1000 ≤ ea.toNat)
    (h2 : s.splimArmed = true → ea.toNat ≤ s.splim.toNat) : s.stackCauses ea false = [] := by
  unfold State.stackCauses
  rw [if_neg]
  simp only [Bool.or_eq_true, decide_eq_true_eq, Bool.and_eq_true, Bool.false_eq_true, or_false]
  rintro (h | ⟨ha, hl⟩)
  · omega
  · have := h2 ha; omega

theorem readCauses_nil (s : State) (ea : Word) (h1 : ea.getLsbD 0 = false) (h2 : s.dataImplemented ea.toNat = true) :
    s.readCauses ea true = [] := by
  rw [State.readCauses, h1, h2]; rfl

theorem writeCauses_nil (s : State) (ea : Word) (h1 : ea.getLsbD 0 = false) (h2 : s.dataImplemented ea.toNat = true) :
    s.writeCauses ea true = [] := by
  rw [State.writeCauses, h1, h2]; rfl

/-! ### Writing a register -/

/-- The fields that no write of a register and no data write reaches. -/
structure State.KeepsCpu (s u : State) : Prop where
  cfg : u.cfg = s.cfg
  pc : u.pc = s.pc
  inttreg : u.inttreg = s.inttreg
  accA : u.accA = s.accA
  accB : u.accB = s.accB
  doStack : u.doStack = s.doStack
  rpt : u.rpt = s.rpt
  gieSeen : u.gieSeen = s.gieSeen
  power : u.power = s.power
  prog : u.prog = s.prog
  agenda : u.agenda = s.agenda
  meanwhile : u.meanwhile = s.meanwhile
  readOut : u.readOut = s.readOut

theorem State.KeepsCpu.trans {s u x : State} (h : s.KeepsCpu u) (k : u.KeepsCpu x) : s.KeepsCpu x :=
  ⟨k.1.trans h.1, k.2.trans h.2, k.3.trans h.3, k.4.trans h.4, k.5.trans h.5, k.6.trans h.6, k.7.trans h.7,
    k.8.trans h.8, k.9.trans h.9, k.10.trans h.10, k.11.trans h.11, k.12.trans h.12,
    k.13.trans h.13⟩

/-- Raising trap events reaches none of them. -/
theorem Raised.keepsCpu {cs : List Cause} {s u : State} (h : Raised cs s u) : s.KeepsCpu u := by
  rw [h.rest]; constructor <;> rfl

/-- The registers READ can name that a write of r leaves alone: those other than r, SGHT in INTCON4, which a write of SWTRAP
sets, and the DISI bit in INTCON2, which a write of DISICNT may clear (R98). -/
def untouchedBy (r r' : RegName) : Prop := r' ≠ r ∧ (r = .intcon2 → r' ≠ .intcon4) ∧ (r = .disicnt → r' ≠ .intcon2)

/-- What a software write of register r leaves. -/
structure Wrote (r : RegName) (s u : State) : Prop where
  cpu : s.KeepsCpu u
  mem : u.mem = s.mem
  skid : u.skid = s.skid
  others : ∀ r', untouchedBy r r' → u.rawReg r' = s.rawReg r'

/-- Everything a software write of a register can do: it is the write of INTCON2 that U6 refuses, or the run goes on, or a
hard trap conflict resets the device. -/
theorem State.writeReg_cases (s : State) (r : RegName) (mask v : Word) (earlier : Earlier := .none) :
    (s.writeReg r mask v earlier = .refused .writeOfDisiBit ∧ r = .intcon2 ∧ mask.getLsbD 14 = true ∧ v.getLsbD 14 ≠ s.disiBit)
      ∨ ∃ u, Wrote r s u
          ∧ (s.writeReg r mask v earlier = .go u ∨ s.writeReg r mask v earlier = .cut (u.deviceReset true)) := by
  have vec {k : Nat} (f : Vector Word k) (x y : Fin k) (w : Word) (h : y ≠ x) : (f.set x.val w x.isLt)[y] = f[y] := by
    have : x.val ≠ y.val := fun e => h (Fin.ext e.symm)
    simp [this]
  have cpu (u : State) (h : u = { u with
      cfg := s.cfg, pc := s.pc, inttreg := s.inttreg, accA := s.accA, accB := s.accB, doStack := s.doStack, rpt := s.rpt,
      gieSeen := s.gieSeen, power := s.power, prog := s.prog, agenda := s.agenda, meanwhile := s.meanwhile,
      readOut := s.readOut }) :
      s.KeepsCpu u := by rw [h]; constructor <;> rfl
  have stays (x : State) (e : s.writeReg r mask v earlier = .go x) (h : Wrote r s x) :
      ∃ u, Wrote r s u
        ∧ (s.writeReg r mask v earlier = .go u ∨ s.writeReg r mask v earlier = .cut (u.deviceReset true)) :=
    ⟨x, h, .inl e⟩
  cases r with
  | intcon1 =>
    right
    have e : s.writeReg .intcon1 mask v earlier = s.writeIntcon1 mask v earlier := rfl
    rw [e]; clear e stays
    unfold State.writeIntcon1
    generalize hn : writeBits s.intcon1 0xFFFE#16 0#16 mask v = new
    simp only
    have he : (s.intcon1Events new).2 = { s with draws := (s.intcon1Events new).2.draws } := by
      unfold State.intcon1Events; simp only; split
      · split <;> rfl
      · split
        · rfl
        · split <;> rfl
    have hc : ∀ c ∈ (s.intcon1Events new).1, c = .oscillator ∨ c = .address := by
      unfold State.intcon1Events; simp only; split
      · split <;> simp
      · split
        · simp
        · split <;> simp
    obtain ⟨u, hr, hu⟩ := raiseAll_cases (s.intcon1Events new).1
      { (s.intcon1Events new).2 with intcon1 := new &&& ~~~((new &&& ~~~s.intcon1) &&& 0x000A#16) } earlier
    refine ⟨u, ?_, hu⟩
    have k3 := hr.keep3 (fun c h d => by rcases hc c h with rfl | rfl <;> simp)
    have k4 := hr.keep4 (fun c h => by rcases hc c h with rfl | rfl <;> simp)
    have hf := hr.rest
    rw [he] at hf k3 k4
    refine ⟨cpu u (by rw [hf]), by rw [hf], by rw [hf], fun r' h => ?_⟩
    cases r' <;> first | exact absurd rfl h.1 | exact k3 | exact k4 | (rw [hf]; rfl)
  | intcon2 =>
    have e : s.writeReg .intcon2 mask v earlier =
        if mask.getLsbD 14 && v.getLsbD 14 != s.disiBit then .refused .writeOfDisiBit
        else s.writeIntcon2 mask v earlier := rfl
    rw [e]; clear e stays
    by_cases hd : (mask.getLsbD 14 && v.getLsbD 14 != s.disiBit) = true
    · left
      rw [if_pos hd]
      simp only [Bool.and_eq_true, bne_iff_ne, ne_eq] at hd
      exact ⟨rfl, rfl, hd.1, hd.2⟩
    · right
      rw [if_neg hd]
      unfold State.writeIntcon2
      simp only
      split
      · obtain ⟨u, hr, hu⟩ := raiseAll_cases [.genericHard] { s with
            intcon2 := writeBits s.intcon2 0xA01F#16 0#16 mask v
            lag := { s.lag with gie := if (writeBits s.intcon2 0xA01F#16 0#16 mask v).getLsbD 15 = s.gie then s.lag.gie
                                       else some (s.lag.gie.getD s.gie) } } earlier
        refine ⟨u, ?_, hu⟩
        have k1 := hr.keep1 (by simp)
        have k3 := hr.keep3 (by simp)
        have hf := hr.rest
        refine ⟨cpu u (by rw [hf]), by rw [hf], by rw [hf], fun r' h => ?_⟩
        cases r' <;> first | exact absurd rfl h.1 | exact absurd rfl (h.2.1 rfl) | exact k3 | exact k1 | (rw [hf]; rfl)
      · refine ⟨_, ?_, .inl rfl⟩
        exact ⟨cpu _ rfl, rfl, rfl, fun r' h => by cases r' <;> first | rfl | exact absurd rfl h.1⟩
  | intcon4 =>
    right
    have e : s.writeReg .intcon4 mask v earlier = s.writeIntcon4 mask v earlier := rfl
    rw [e]; clear e stays
    unfold State.writeIntcon4
    simp only
    split
    · obtain ⟨u, hr, hu⟩ := raiseAll_cases [.genericHard] { s with
          intcon4 := writeBits s.intcon4 0x0001#16 0#16 mask v &&& ~~~0x0001#16 } earlier
      refine ⟨u, ?_, hu⟩
      have k1 := hr.keep1 (by simp)
      have k3 := hr.keep3 (by simp)
      have hf := hr.rest
      refine ⟨cpu u (by rw [hf]), by rw [hf], by rw [hf], fun r' h => ?_⟩
      cases r' <;> first | exact absurd rfl h.1 | exact k3 | exact k1 | (rw [hf]; rfl)
    · refine ⟨_, ?_, .inl rfl⟩
      exact ⟨cpu _ rfl, rfl, rfl, fun r' h => by cases r' <;> first | rfl | exact absurd rfl h.1⟩
  | disicnt =>
    refine .inr (stays _ rfl ?_)
    unfold State.writeDisicnt
    simp only
    split <;> exact ⟨cpu _ rfl, rfl, rfl, fun r' h => by
      cases r' <;> first | rfl | exact absurd rfl h.1 | exact absurd rfl (h.2.2 rfl)⟩
  | w i =>
    exact .inr (stays _ rfl ⟨cpu _ rfl, rfl, rfl, fun r' h => by
      cases r' <;> first | rfl | exact vec _ _ _ _ (fun e => h.1 (congrArg RegName.w e))⟩)
  | ifs i =>
    exact .inr (stays _ rfl ⟨cpu _ rfl, rfl, rfl, fun r' h => by
      cases r' <;> first | rfl | exact vec _ _ _ _ (fun e => h.1 (congrArg RegName.ifs e))⟩)
  | iec i =>
    exact .inr (stays _ rfl ⟨cpu _ rfl, rfl, rfl, fun r' h => by
      cases r' <;> first | rfl | exact vec _ _ _ _ (fun e => h.1 (congrArg RegName.iec e))⟩)
  | ipc i =>
    exact .inr (stays _ rfl ⟨cpu _ rfl, rfl, rfl, fun r' h => by
      cases r' <;> first | rfl | exact vec _ _ _ _ (fun e => h.1 (congrArg RegName.ipc e))⟩)
  | sr =>
    refine .inr (stays _ rfl ?_)
    split <;> exact ⟨cpu _ rfl, rfl, rfl, fun r' h => by cases r' <;> first | rfl | exact absurd rfl h.1⟩
  | inttreg => exact .inr (stays s rfl ⟨cpu _ rfl, rfl, rfl, fun _ _ => rfl⟩)
  | splim | corcon | intcon3 | rcon | osccon | mstrpr | dsrPage | dswPage | bdtp1 | bdtp2 | bdtp3 =>
    exact .inr (stays _ rfl ⟨cpu _ rfl, rfl, rfl, fun r' h => by cases r' <;> first | rfl | exact absurd rfl h.1⟩)

/-! ### Data writes -/

theorem State.store_frame (s : State) (ea : Word) (wide : Bool) (v : Word) :
    s.store ea wide v = { s with mem := (s.store ea wide v).mem } := by
  unfold State.store; split
  · split <;> rfl
  · rfl

/-- What a data write at `ea` leaves: memory, where no register lies; else what a software write of the register leaves, and
the skid counters of R262. -/
structure DataWrote (ea : Word) (s u : State) : Prop where
  cpu : s.KeepsCpu u
  memory : s.registerAt ea.toNat = none → u = { s with mem := u.mem }
  register : ∀ r, s.registerAt ea.toNat = some r →
    u.mem = s.mem ∧ (∀ r', untouchedBy r r' → u.rawReg r' = s.rawReg r')
      ∧ ∀ t, u.skidOf t = if u.trapPending t then s.skidOf t else 0

/-- The skid counters after R262 has dropped those of traps that are not pending. -/
theorem State.dropCleared_skidOf (s : State) (t : Trap) : s.dropCleared.skidOf t = if s.trapPending t then s.skidOf t else 0 := by
  cases t <;> first | rfl | simp [State.skidOf]

theorem State.dropCleared_trapPending (s : State) (t : Trap) : s.dropCleared.trapPending t = s.trapPending t := by
  cases t <;> rfl

/-- Everything a data write can do: the write of INTCON2 that U6 refuses, or the run goes on, or a hard trap conflict of a
write to a trap flag resets the device. -/
theorem State.dataWrite_cases (s : State) (ea : Word) (wide : Bool) (v : Word) (earlier : Earlier := .none) :
    (s.dataWrite ea wide v earlier = .refused .writeOfDisiBit ∧ s.registerAt ea.toNat = some .intcon2)
      ∨ ∃ u, DataWrote ea s u
          ∧ (s.dataWrite ea wide v earlier = .go u ∨ s.dataWrite ea wide v earlier = .cut (u.deviceReset true)) := by
  cases hr : s.registerAt ea.toNat with
  | none =>
    right
    refine ⟨s.store ea wide v, ⟨?_, fun _ => State.store_frame _ _ _ _, fun r h => ?_⟩,
      .inl (State.dataWrite_of_memory _ _ _ _ hr _)⟩
    · rw [State.store_frame]; constructor <;> rfl
    · rw [hr] at h; cases h
  | some r =>
    have e : s.dataWrite ea wide v earlier = (s.writeReg r (byteMask ea wide)
        (if !wide && ea.getLsbD 0 then v <<< 8 else v) earlier).bind fun s1 => .go s1.dropCleared := by
      unfold State.dataWrite; rw [hr]; rfl
    rcases s.writeReg_cases r (byteMask ea wide) (if !wide && ea.getLsbD 0 then v <<< 8 else v) earlier with
      ⟨h, rfl, -⟩ | ⟨u, hu, h | h⟩
    · exact .inl ⟨by rw [e, h]; rfl, rfl⟩
    all_goals
      refine .inr ⟨u.dropCleared, ⟨hu.cpu.trans (by constructor <;> rfl), fun h' => by (rw [hr] at h'; cases h'),
        fun r' h' => ?_⟩, by rw [e, h]; first | exact .inl rfl | exact .inr rfl⟩
      rw [hr] at h'; injection h' with h'; subst h'
      refine ⟨hu.mem, fun q hq => ?_, fun t => ?_⟩
      · rw [← hu.others q hq]; cases q <;> rfl
      · have hs : u.skidOf t = s.skidOf t := by
          have := hu.skid
          cases t <;> simp only [State.skidOf, this]
        rw [State.dropCleared_skidOf, State.dropCleared_trapPending, hs]

/-! ### The stack -/

@[simp] theorem State.sp_setReg (s : State) (v : Word) : (s.setReg 15 v).sp = v := by
  simp [State.sp, State.reg, State.setReg]

theorem State.setReg_setReg (s : State) (i : Fin 16) (u v : Word) : (s.setReg i u).setReg i v = s.setReg i v := by
  simp [State.setReg]

theorem State.reg_setReg_other (s : State) (i j : Fin 16) (v : Word) (h : j ≠ i) : (s.setReg i v).reg j = s.reg j := by
  have : i.val ≠ j.val := fun e => h (Fin.ext e.symm)
  simp [State.reg, State.setReg, this]

theorem word_even (a : Word) : a.getLsbD 0 = false ↔ a.toNat % 2 = 0 := by
  rw [BitVec.getLsbD, Nat.testBit_zero]; simp

/-- The trap events of a push are those of an access, the address error of an odd W15 among them (R91). -/
theorem State.pushCauses_access (s : State) :
    AccessCauses s.pushCauses ∧ (s.sp.getLsbD 0 = true → Cause.address ∈ s.pushCauses) :=
  ⟨accessCauses_append (stackCauses_access _ _ _) (writeCauses_access _ _ _),
    fun h => List.mem_append.mpr (.inr (by simp [State.writeCauses, h]))⟩

/-- A push asks only for W15, the limit check and the device. -/
theorem State.pushCauses_congr {s t : State} (h1 : t.sp = s.sp) (h2 : t.splim = s.splim) (h3 : t.splimArmed = s.splimArmed)
    (h4 : t.cfg = s.cfg) : t.pushCauses = s.pushCauses := by
  unfold State.pushCauses State.stackCauses State.writeCauses State.dataImplemented State.registerAt
  rw [h1, h2, h3, h4]

/-- The trap events of the two slots above W15. -/
def State.frameCauses (s : State) : List Cause := s.pushCauses ++ (s.setReg 15 (s.sp + 2#16)).pushCauses

theorem State.frameCauses_access (s : State) : AccessCauses s.frameCauses :=
  accessCauses_append s.pushCauses_access.1 (State.pushCauses_access _).1

theorem State.pushInhibited_iff (s : State) : s.pushInhibited = true ↔ Cause.address ∈ s.frameCauses :=
  List.contains_iff_mem

theorem word_sub_four (a : Word) : a - 2#16 - 2#16 = a - 4#16 := by
  apply BitVec.eq_of_toNat_eq; simp only [BitVec.toNat_sub]; have := a.isLt; simp; omega

theorem word_add_four (a : Word) : a + 2#16 + 2#16 = a + 4#16 := by rw [BitVec.add_assoc]; rfl

/-- Everything a push can do: it is the write of INTCON2 that U6 refuses; or its trap events leave x, the write, where no
address error inhibits it, leaves u, and W15 moves on; or a hard trap conflict of either resets the device. -/
theorem State.push_cases (s : State) (v : Word) (inhibited : Bool) (earlier : List Trap) :
    (s.push v inhibited earlier = .refused .writeOfDisiBit ∧ s.registerAt s.sp.toNat = some .intcon2)
      ∨ ∃ n x u, Raised s.pushCauses { s with draws := n } x
          ∧ (u = x ∨ (inhibited = false ∧ Cause.address ∉ s.pushCauses ∧ DataWrote s.sp x u))
          ∧ (s.push v inhibited earlier = .cut (u.deviceReset true)
            ∨ s.push v inhibited earlier = .go (u.setReg 15 (u.sp + 2#16))) := by
  have hd := s.drawEarlier_frame earlier
  unfold State.push
  generalize s.drawEarlier earlier = e at hd ⊢
  obtain ⟨x, hx, hk | hk⟩ := raiseAll_cases s.pushCauses e.2 e.1
  · rw [hd] at hx
    simp only [hk, Flow.bind_go]
    split
    · exact .inr ⟨_, x, x, hx, .inl rfl, .inr rfl⟩
    · rename_i hn
      simp only [Bool.or_eq_true, not_or, Bool.not_eq_true] at hn
      have ha : Cause.address ∉ s.pushCauses := fun h => by rw [List.contains_iff_mem.mpr h] at hn; cases hn.2
      have hc : x.registerAt s.sp.toNat = s.registerAt s.sp.toNat := by rw [hx.rest]; rfl
      rcases x.dataWrite_cases s.sp true v e.1 with ⟨h, hr⟩ | ⟨u, hu, h | h⟩
      · exact .inl ⟨by rw [h]; rfl, by rw [← hc]; exact hr⟩
      · exact .inr ⟨_, x, u, hx, .inr ⟨hn.1, ha, hu⟩, .inr (by rw [h]; rfl)⟩
      · exact .inr ⟨_, x, u, hx, .inr ⟨hn.1, ha, hu⟩, .inl (by rw [h]; rfl)⟩
  · rw [hd] at hx
    exact .inr ⟨_, x, x, hx, .inl rfl, .inl (by simp only [hk, Flow.bind_cut])⟩

/-- An inhibited push raises its trap events and moves W15 on, or they make a hard trap conflict (R95, R272). -/
theorem State.push_inhibited (s : State) (v : Word) (earlier : List Trap) :
    ∃ n, s.push v true earlier = .go { s with w := s.w.set 15 (s.sp + 2#16)
                                              intcon1 := s.intcon1 ||| accessBits s.pushCauses, draws := n }
      ∨ ∃ x, s.push v true earlier = .cut (State.deviceReset { s with intcon1 := x, draws := n } true) := by
  have hd := s.drawEarlier_frame earlier
  unfold State.push
  generalize s.drawEarlier earlier = e at hd ⊢
  refine ⟨e.2.draws, ?_⟩
  rcases raiseAll_access s.pushCauses e.2 s.pushCauses_access.1 e.1 with h | ⟨x, h, -⟩
  · left
    simp only [h, Flow.bind_go, Bool.true_or, if_true]
    rw [hd]; rfl
  · right
    refine ⟨x, ?_⟩
    simp only [h, Flow.bind_cut]
    rw [hd]

/-- A push into implemented data memory that raises no address error: any stack error is raised, the word is written, and W15
moves on (R94, R95). -/
theorem State.push_memory (s : State) (v : Word) (h : Cause.address ∉ s.pushCauses)
    (h1 : s.dataImplemented s.sp.toNat = true) (h2 : s.registerAt s.sp.toNat = none) :
    s.push v false [] =
      .go (({ s with intcon1 := s.intcon1 ||| accessBits s.pushCauses }.writeWord s.sp v).setReg 15 (s.sp + 2#16)) := by
  have hn : s.pushCauses.contains .address = false := by
    rw [← Bool.not_eq_true, List.contains_iff_mem]; exact h
  unfold State.push
  simp only [State.drawEarlier_nil, raiseAll_access_go _ s s.pushCauses_access.1 h .none, Flow.bind_go, hn, Bool.or_self,
    Bool.false_eq_true, if_false]
  rw [State.dataWrite_word { s with intcon1 := s.intcon1 ||| accessBits s.pushCauses } s.sp v h1 h2 .none]
  rfl

/-- Pushes inhibited by the address error write nothing: the trap events of both are raised and W15 moves up by 4; or they
make a hard trap conflict (R95, R272). -/
theorem State.pushFrame_inhibited (s : State) (a b : Word) (h : Cause.address ∈ s.frameCauses) :
    ∃ n, s.pushFrame a b = .go { s with w := s.w.set 15 (s.sp + 4#16)
                                        intcon1 := s.intcon1 ||| accessBits s.frameCauses, draws := n }
      ∨ ∃ w x, s.pushFrame a b = .cut (State.deviceReset { s with w := w, intcon1 := x, draws := n } true) := by
  unfold State.pushFrame
  rw [s.pushInhibited_iff.mpr h]
  obtain ⟨n, h1 | ⟨x, h1⟩⟩ := s.push_inhibited a []
  · rw [h1, Flow.bind_go]
    generalize hq : ({ s with w := s.w.set 15 (s.sp + 2#16), intcon1 := s.intcon1 ||| accessBits s.pushCauses, draws := n } :
      State) = q
    have hsp : q.sp = s.sp + 2#16 := by subst hq; simp [State.sp, State.reg]
    have hc : q.pushCauses = (s.setReg 15 (s.sp + 2#16)).pushCauses := by
      apply State.pushCauses_congr <;> subst hq <;> rfl
    have hb : q.intcon1 ||| accessBits q.pushCauses = s.intcon1 ||| accessBits s.frameCauses := by
      rw [hc]; subst hq
      apply word_ext; intro j _
      simp only [BitVec.getLsbD_or, accessBits_getLsbD, State.frameCauses, List.mem_append]
      by_cases h2 : j = 2 <;> by_cases h3 : j = 3 <;> simp [h2, h3, Bool.or_assoc]
    obtain ⟨m, h2 | ⟨x, h2⟩⟩ := q.push_inhibited b (s.hardSince q)
    · refine ⟨m, .inl ?_⟩
      rw [h2, hb, hsp, word_add_four]
      subst hq
      simp
    · exact ⟨m, .inr ⟨_, x, by rw [h2]; subst hq; rfl⟩⟩
  · exact ⟨n, .inr ⟨s.w, x, by rw [h1]; rfl⟩⟩

/-- Two pushes in implemented data memory at an even W15, whatever the stack checks say: both words are written and W15 moves
up by 4. -/
theorem State.pushFrame_memory (s : State) (a b : Word) (h0 : s.sp.getLsbD 0 = false) (h2 : s.sp.toNat + 4 < 0x10000)
    (h3 : s.dataImplemented s.sp.toNat = true) (h4 : s.dataImplemented (s.sp.toNat + 2) = true)
    (h5 : s.registerAt s.sp.toNat = none) (h6 : s.registerAt (s.sp.toNat + 2) = none) :
    Cause.address ∉ s.frameCauses
      ∧ s.pushFrame a b = .go ((({ s with intcon1 := s.intcon1 ||| accessBits s.frameCauses }.setReg 15
          (s.sp + 4#16)).writeWord s.sp a).writeWord (s.sp + 2#16) b) := by
  have ht : (s.sp + 2#16).toNat = s.sp.toNat + 2 := by rw [BitVec.toNat_add]; simp; omega
  have he : (s.sp + 2#16).getLsbD 0 = false := by rw [word_even] at h0 ⊢; omega
  have e2 : (s.setReg 15 (s.sp + 2#16)).sp = s.sp + 2#16 := State.sp_setReg _ _
  have hst (x : State) (ea : Word) (w : Bool) : Cause.address ∉ x.stackCauses ea w := by
    unfold State.stackCauses; split <;> simp
  have n1 : Cause.address ∉ s.pushCauses := by
    unfold State.pushCauses
    rw [writeCauses_nil s s.sp h0 h3, List.append_nil]; exact hst _ _ _
  have n2 : Cause.address ∉ (s.setReg 15 (s.sp + 2#16)).pushCauses := by
    unfold State.pushCauses
    rw [e2, writeCauses_nil _ _ he (by rw [ht]; exact h4), List.append_nil]; exact hst _ _ _
  have hn : Cause.address ∉ s.frameCauses := by
    unfold State.frameCauses; rw [List.mem_append, not_or]; exact ⟨n1, n2⟩
  have hi : s.pushInhibited = false := by rw [← Bool.not_eq_true, s.pushInhibited_iff]; exact hn
  refine ⟨hn, ?_⟩
  unfold State.pushFrame
  rw [hi, s.push_memory a n1 h3 h5, Flow.bind_go]
  generalize hq : ({ s with intcon1 := s.intcon1 ||| accessBits s.pushCauses }.writeWord s.sp a).setReg 15 (s.sp + 2#16) = q
  have hsp : q.sp = s.sp + 2#16 := by subst hq; exact State.sp_setReg _ _
  have hc : q.pushCauses = (s.setReg 15 (s.sp + 2#16)).pushCauses := by
    apply State.pushCauses_congr <;> subst hq <;> rfl
  have hh : s.hardSince q = [] := by
    apply State.hardSince_nil
    subst hq
    have b1 (j : Nat) (hj : j = 1 ∨ j = 3) : (accessBits s.pushCauses).getLsbD j = false := by
      rw [accessBits_getLsbD]; rcases hj with rfl | rfl <;> simp [n1]
    rintro u (rfl | rfl | rfl)
    · show (s.intcon1 ||| accessBits s.pushCauses).getLsbD 1 = s.intcon1.getLsbD 1
      rw [BitVec.getLsbD_or, b1 1 (.inl rfl), Bool.or_false]
    · show (s.intcon1 ||| accessBits s.pushCauses).getLsbD 3 = s.intcon1.getLsbD 3
      rw [BitVec.getLsbD_or, b1 3 (.inr rfl), Bool.or_false]
    · rfl
  rw [hh, q.push_memory b (by rw [hc]; exact n2) (by rw [hsp, ht]; subst hq; exact h4)
    (by rw [hsp, ht]; subst hq; exact h6)]
  have hb : q.intcon1 ||| accessBits q.pushCauses = s.intcon1 ||| accessBits s.frameCauses := by
    rw [hc]; subst hq
    apply word_ext; intro j _
    show ((s.intcon1 ||| accessBits s.pushCauses) ||| accessBits _).getLsbD j = _
    simp only [BitVec.getLsbD_or, accessBits_getLsbD, State.frameCauses, List.mem_append]
    by_cases h2 : j = 2 <;> by_cases h3 : j = 3 <;> simp [h2, h3, Bool.or_assoc]
  rw [hb, hsp, word_add_four]
  subst hq
  simp [State.setReg, State.writeWord, State.writeByte]

/-- Two pushes with room raise no trap event (R91, R92, R94). -/
theorem State.pushFrame_ready (s : State) (a b : Word) (h : s.pushReady) :
    s.pushFrame a b = .go (((s.setReg 15 (s.sp + 4#16)).writeWord s.sp a).writeWord (s.sp + 2#16) b) := by
  obtain ⟨h0, h1, h2, h3, h4, h5, h6, h7⟩ := h
  have ht : (s.sp + 2#16).toNat = s.sp.toNat + 2 := by rw [BitVec.toNat_add]; simp; omega
  have he : (s.sp + 2#16).getLsbD 0 = false := by rw [word_even] at h0 ⊢; omega
  have e2 : (s.setReg 15 (s.sp + 2#16)).sp = s.sp + 2#16 := State.sp_setReg _ _
  have hn : s.frameCauses = [] := by
    have d1 : decide (0x10000 ≤ s.sp.toNat + 2) = false := by simp; omega
    have d2 : decide (0x10000 ≤ s.sp.toNat + 2 + 2) = false := by simp; omega
    unfold State.frameCauses State.pushCauses
    simp only [e2, ht, d1, d2, Bool.false_and]
    rw [stackCauses_nil s s.sp h1 (fun ha => by have := h7 ha; omega), writeCauses_nil s s.sp h0 h3,
      stackCauses_nil _ _ (by omega) (fun ha => by rw [ht]; exact h7 ha), writeCauses_nil _ _ he (by rw [ht]; exact h4)]
    rfl
  have := (s.pushFrame_memory a b h0 h2 h3 h4 h5 h6).2
  rw [this, hn]
  simp [accessBits]

/-- What a pop does: W15 moves down by 2, free values may be drawn, and the trap events are those of an access. -/
theorem State.pop_frame (s : State) :
    s.pop.st = { s with w := s.w.set 15 (s.sp - 2#16), draws := s.pop.st.draws } ∧ AccessCauses s.pop.causes
      ∧ (s.sp.toNat < 0x1002 → 2 ≤ s.sp.toNat → Cause.stack ∈ s.pop.causes) := by
  have hs : s.sp.toNat < 0x1002 → 2 ≤ s.sp.toNat → ∀ w, Cause.stack ∈ s.stackCauses (s.sp - 2#16) w := by
    intro h1 h2 w
    have : (s.sp - 2#16).toNat < 0x1000 := by rw [BitVec.toNat_sub]; simp; omega
    rw [State.stackCauses, if_pos]
    · exact List.mem_singleton.mpr rfl
    · simp only [Bool.or_eq_true, decide_eq_true_eq]; exact .inl (.inl this)
  unfold State.pop
  simp only
  split
  · exact ⟨rfl, stackCauses_access _ _ _, fun h1 h2 => hs h1 h2 _⟩
  · exact ⟨rfl, accessCauses_append (stackCauses_access _ _ _) (readCauses_access _ _ _),
      fun h1 h2 => List.mem_append.mpr (.inl (hs h1 h2 _))⟩

/-- A pop that passes the checks. -/
theorem State.pop_ready (s : State) (h0 : s.sp.getLsbD 0 = false) (h1 : 0x1002 ≤ s.sp.toNat)
    (h2 : s.dataImplemented (s.sp.toNat - 2) = true) (hr : s.registerAt (s.sp.toNat - 2) = none)
    (h3 : s.splimArmed = true → s.sp.toNat - 2 ≤ s.splim.toNat) :
    s.pop = { value := s.readWord (s.sp - 2#16), causes := [], st := s.setReg 15 (s.sp - 2#16) } := by
  have hlt := s.sp.isLt
  have ht : (s.sp - 2#16).toNat = s.sp.toNat - 2 := by rw [BitVec.toNat_sub]; simp; omega
  have he : (s.sp - 2#16).getLsbD 0 = false := by rw [word_even] at h0 ⊢; omega
  have hd : decide (s.sp.toNat < 2) = false := by simp; omega
  have hv : (s.setReg 15 (s.sp - 2#16)).readWord (s.sp - 2#16) = s.readWord (s.sp - 2#16) := by
    rw [State.readWord_of_memory s _ (by rw [ht]; exact hr), State.readWord_of_memory _ _ (by rw [ht]; exact hr)]; rfl
  unfold State.pop
  simp only [hd, Bool.false_and]
  rw [stackCauses_nil s _ (by omega) (fun ha => by rw [ht]; exact h3 ha),
    readCauses_nil s _ he (by rw [ht]; exact h2), hv]

/-- Two pops that pass the checks, with nothing to come between them: word B at W15 - 2, word A at W15 - 4, W15 moved down by
4. -/
theorem State.popFrame_ready (s : State) (between : State → Flow) (k : Word → Word → State → Flow) (h : s.popReady)
    (hm : between (s.setReg 15 (s.sp - 2#16)) = .go (s.setReg 15 (s.sp - 2#16))) :
    s.popFrame between k = match s.readWord (s.sp - 2#16), s.readWord (s.sp - 4#16) with
      | some vb, some va => k vb va (s.setReg 15 (s.sp - 4#16))
      | _, _ => .fault .readOfUnwrittenMemory := by
  obtain ⟨h0, h1, h2, h3, hr2, hr4, h4⟩ := h
  have hlt := s.sp.isLt
  have ht : (s.sp - 2#16).toNat = s.sp.toNat - 2 := by rw [BitVec.toNat_sub]; simp; omega
  have ht4 : (s.sp - 4#16).toNat = s.sp.toNat - 4 := by rw [BitVec.toNat_sub]; simp; omega
  have he : (s.sp - 2#16).getLsbD 0 = false := by rw [word_even] at h0 ⊢; omega
  have hv : (s.setReg 15 (s.sp - 2#16)).readWord (s.sp - 4#16) = s.readWord (s.sp - 4#16) := by
    rw [State.readWord_of_memory s _ (by rw [ht4]; exact hr4), State.readWord_of_memory _ _ (by rw [ht4]; exact hr4)]
    rfl
  have p2 : (s.setReg 15 (s.sp - 2#16)).pop =
      { value := s.readWord (s.sp - 4#16), causes := [], st := s.setReg 15 (s.sp - 4#16) } := by
    rw [State.pop_ready _ (by rw [State.sp_setReg]; exact he) (by rw [State.sp_setReg]; omega)
      (by rw [State.sp_setReg, ht]; exact h3) (by rw [State.sp_setReg, ht]; exact hr4) (fun ha => by
        rw [State.sp_setReg, ht]
        have hs : s.sp.toNat - 2 ≤ s.splim.toNat := h4 ha
        show s.sp.toNat - 2 - 2 ≤ s.splim.toNat
        omega)]
    rw [State.sp_setReg, State.setReg_setReg, word_sub_four, hv]
  unfold State.popFrame
  rw [State.pop_ready s h0 (by omega) h2 hr2 h4]
  simp only [raiseAll, Flow.bind_go]
  rw [hm, Flow.bind_go, p2]
  cases s.readWord (s.sp - 2#16) <;> cases s.readWord (s.sp - 4#16) <;> rfl

/-! ### The DISI countdown -/

/-- The countdown changes DISICNT, the DISI bit and the draw counter, and leaves no open window with a count of 0. -/
theorem State.countdown_frame (s : State) (lo hi : Nat) :
    s.countdown lo hi = { s with disicnt := (s.countdown lo hi).disicnt, intcon2 := (s.countdown lo hi).intcon2,
                                 draws := (s.countdown lo hi).draws }
      ∧ (∀ j, j ≠ 14 → (s.countdown lo hi).intcon2.getLsbD j = s.intcon2.getLsbD j)
      ∧ ((s.disiBit = true → s.disicnt ≠ 0#14) → (s.countdown lo hi).disiBit = true → (s.countdown lo hi).disicnt ≠ 0#14) := by
  unfold State.countdown
  have hd : (s.drawBetween (max 1 lo) hi).2 = { s with draws := (s.drawBetween (max 1 lo) hi).2.draws } := by
    unfold State.drawBetween; split <;> rfl
  have hc : 1 ≤ (s.drawBetween (max 1 lo) hi).1 := by
    unfold State.drawBetween; split <;> simp only <;> omega
  simp only
  split
  · split
    · refine ⟨by rw [hd]; rfl, fun j hj => ?_, fun _ h => ?_⟩
      · rw [State.setDisiBit_intcon2, setBit_getLsbD _ _ _ _ (by omega), if_neg hj, hd]
      · rw [State.setDisiBit_disiBit] at h; cases h
    · rename_i hlt
      refine ⟨by rw [hd], fun j hj => by rw [hd], fun _ _ h0 => ?_⟩
      have := congrArg BitVec.toNat h0
      have hb := (s.drawBetween (max 1 lo) hi).2.disicnt.isLt
      simp only [BitVec.toNat_ofNat] at this
      omega
  · exact ⟨rfl, fun _ _ => rfl, fun h => h⟩

/-! ### Taking an exception -/

theorem mem_range16 {j : Nat} (h : j < 16) : j = 0 ∨ j = 1 ∨ j = 2 ∨ j = 3 ∨ j = 4 ∨ j = 5 ∨ j = 6 ∨ j = 7 ∨ j = 8 ∨
    j = 9 ∨ j = 10 ∨ j = 11 ∨ j = 12 ∨ j = 13 ∨ j = 14 ∨ j = 15 := by omega

/-- A bit of a word written under a mask that does not cover it. -/
theorem mergeBits_keeps (old m v : Word) (j : Nat) (h : m.getLsbD j = false) :
    (mergeBits old m v).getLsbD j = old.getLsbD j := by rw [mergeBits_getLsbD, h]; rfl

/-- A write of all 16 bits leaves the value. -/
@[simp] theorem mergeBits_full (old v : Word) : mergeBits old 0xFFFF#16 v = v := by
  apply word_ext; intro j hj; rw [mergeBits_getLsbD]
  rcases mem_range16 hj with rfl | rfl | rfl | rfl | rfl | rfl | rfl | rfl | rfl | rfl | rfl | rfl | rfl | rfl | rfl | rfl <;>
    simp

/-- A software write of all 16 bits of a register without clear-only bits stores the writable ones. -/
theorem writeBits_full (old writable v : Word) :
    writeBits old writable 0#16 0xFFFF#16 v = (old &&& ~~~writable) ||| (v &&& writable) := by
  apply word_ext; intro j hj
  have h1 : (0xFFFF#16).getLsbD j = true := by
    rcases mem_range16 hj with rfl | rfl | rfl | rfl | rfl | rfl | rfl | rfl | rfl | rfl | rfl | rfl | rfl | rfl | rfl | rfl <;> rfl
  rw [writeBits_getLsbD, BitVec.getLsbD_or, BitVec.getLsbD_and, BitVec.getLsbD_and, BitVec.getLsbD_not, h1]
  simp only [hj]
  cases writable.getLsbD j <;> simp

/-- An instruction whose operation goes on with `pc` unmoved ends at the next address, where there is room for it. -/
theorem Flow.thenAdvance_room (s u : State) (h : s.roomAfter 1) (hp : u.pc = s.pc) :
    (Flow.go u).thenAdvance = .next { u with pc := s.pc + 2#24 } := by
  have hu : u.roomAfter 1 := by unfold State.roomAfter State.pcAligned; rw [hp]; exact h
  show Host.Outcome.next (u.advance 1) = _
  rw [u.advance_room 1 hu, hp]

/-- DL reads back the low three bits of what was written. -/
theorem State.setDoLevel_doLevel (s : State) (l : Nat) : (s.setDoLevel l).doLevel = l % 8 := by
  have h : (s.setDoLevel l).corcon.extractLsb' 8 3 = BitVec.ofNat 3 l := by
    apply word_ext
    intro i hi
    have hm : (0x0700#16).getLsbD (8 + i) = true := by
      have : i = 0 ∨ i = 1 ∨ i = 2 := by omega
      rcases this with rfl | rfl | rfl <;> decide
    have he : (256 * l) = 2 ^ 8 * l := by norm_num
    rw [BitVec.getLsbD_extractLsb', State.setDoLevel_corcon, mergeBits_getLsbD, hm, BitVec.getLsbD_ofNat,
      BitVec.getLsbD_ofNat, he, Nat.testBit_two_pow_mul]
    have : 8 + i < 16 := by omega
    simp [this, hi]
  rw [State.doLevel, h, BitVec.toNat_ofNat]

/-- Two fields that a write outside them leaves alone. -/
theorem extract_congr {x y : Word} (lo len : Nat) (h : ∀ j, lo ≤ j → j < lo + len → x.getLsbD j = y.getLsbD j) :
    x.extractLsb' lo len = y.extractLsb' lo len := by
  apply word_ext
  intro i hi
  rw [BitVec.getLsbD_extractLsb', BitVec.getLsbD_extractLsb', h (lo + i) (by omega) (by omega)]

/-- The bits of SR and CORCON that the loss of the loop state leaves alone. -/
theorem State.loseLoopState_frame (s : State) :
    s.loseLoopState = { s with sr := s.loseLoopState.sr, corcon := s.loseLoopState.corcon,
                               doStack := s.loseLoopState.doStack, rpt := s.loseLoopState.rpt,
                               draws := s.loseLoopState.draws }
      ∧ (∀ j, j ≠ 4 → j ≠ 9 → s.loseLoopState.sr.getLsbD j = s.sr.getLsbD j)
      ∧ (∀ j, j ≠ 2 → j < 8 ∨ 11 ≤ j → s.loseLoopState.corcon.getLsbD j = s.corcon.getLsbD j)
      ∧ s.loseLoopState.doLevel ≤ 4 := by
  have hc : s.loseLoopState.corcon = mergeBits (setBit s.corcon 2 (Config.freeNat s.draws % 2 == 1)) 0x0700#16
      (BitVec.ofNat 16 (256 * (Config.freeNat (s.draws + 1) % 5))) := rfl
  have hs : s.loseLoopState.sr = mergeBits s.sr 0x0210#16 (BitVec.ofNat 16 (Config.freeNat (s.draws + 2))) := rfl
  refine ⟨rfl, fun j h4 h9 => ?_, fun j h2 h8 => ?_, ?_⟩
  · rw [hs]
    by_cases hj : j < 16
    · apply mergeBits_keeps
      rcases mem_range16 hj with h | h | h | h | h | h | h | h | h | h | h | h | h | h | h | h <;> subst h <;>
        first | rfl | exact absurd rfl h4 | exact absurd rfl h9
    · rw [BitVec.getLsbD_of_ge _ j (by omega), BitVec.getLsbD_of_ge _ j (by omega)]
  · rw [hc]
    by_cases hj : j < 16
    · rw [mergeBits_keeps, setBit_getLsbD _ _ _ _ (by omega), if_neg h2]
      rcases mem_range16 hj with h | h | h | h | h | h | h | h | h | h | h | h | h | h | h | h <;> subst h <;>
        first | rfl | omega
    · rw [BitVec.getLsbD_of_ge _ j (by omega), BitVec.getLsbD_of_ge _ j (by omega)]
  · have : s.loseLoopState.doLevel = (Config.freeNat (s.draws + 1) % 5) % 8 :=
      State.setDoLevel_doLevel (s.setSfa (Config.freeNat s.draws % 2 == 1)) _
    omega

/-- The INTTREG latch changes INTTREG and the draw counter. -/
theorem State.latch_frame (s : State) (src : Source) (level : Nat) :
    s.latch src level = { s with inttreg := (s.latch src level).inttreg, draws := (s.latch src level).draws } := by
  unfold State.latch
  cases src with
  | trap t => rfl
  | irq n => simp only; split <;> rfl

/-- The new level is written to IPL<2:0> and IPL3 and nowhere else (R243, R252). -/
theorem State.setLevel_frame (s : State) (src : Source) (level : Nat) :
    s.setLevel src level = { s with sr := (s.setLevel src level).sr, corcon := (s.setLevel src level).corcon }
      ∧ (∀ j, j < 5 ∨ 8 ≤ j → (s.setLevel src level).sr.getLsbD j = s.sr.getLsbD j)
      ∧ (∀ j, j ≠ 3 → (s.setLevel src level).corcon.getLsbD j = s.corcon.getLsbD j)
      ∧ (s.setLevel src level).ipl3 = (match src with | .trap _ => true | .irq _ => false)
      ∧ (s.setLevel src level).ipl =
          (match src with | .trap _ => (level - 8) % 8 | .irq _ => if s.nstdis then 7 else level % 8) := by
  have hm (x : State) (l : Nat) (j : Nat) (hj : j < 5 ∨ 8 ≤ j) : (x.setIpl l).sr.getLsbD j = x.sr.getLsbD j := by
    by_cases h16 : j < 16
    · rw [State.setIpl_sr, mergeBits_keeps]
      rcases mem_range16 h16 with h | h | h | h | h | h | h | h | h | h | h | h | h | h | h | h <;> subst h <;>
        first | rfl | omega
    · rw [BitVec.getLsbD_of_ge _ j (by omega), BitVec.getLsbD_of_ge _ j (by omega)]
  have hb (x : State) (b : Bool) (j : Nat) (hj : j ≠ 3) : (x.setIpl3 b).corcon.getLsbD j = x.corcon.getLsbD j := by
    rw [State.setIpl3_corcon, setBit_getLsbD _ _ _ _ (by omega), if_neg hj]
  have h3' (x : State) (b : Bool) (l : Nat) : ((x.setIpl3 b).setIpl l).ipl3 = b := by
    show (x.setIpl3 b).ipl3 = b; simp
  cases src with
  | trap t => exact ⟨rfl, fun j hj => hm _ _ j hj, fun j hj => hb _ _ j hj, h3' _ _ _, State.setIpl_ipl _ _⟩
  | irq n =>
    refine ⟨rfl, fun j hj => hm _ _ j hj, fun j hj => hb _ _ j hj, h3' _ _ _, ?_⟩
    show ((s.setIpl3 false).setIpl _).ipl = _
    rw [State.setIpl_ipl]
    show (if s.nstdis then 7 else level) % 8 = if s.nstdis then 7 else level % 8
    split <;> rfl

/-- What clearing the skid counter of an entered source does. -/
theorem State.clearSkidOf_frame (s : State) (src : Source) :
    s.clearSkidOf src = { s with skid := (s.clearSkidOf src).skid } := by
  unfold State.clearSkidOf State.setSkid
  cases src with
  | irq n => rfl
  | trap t => cases t <;> rfl

theorem State.clearSkidOf_skid (x s : State) (src : Source) (hx : x.skid = s.skid) :
    (x.clearSkidOf src).skid = (s.clearSkidOf src).skid := by
  unfold State.clearSkidOf State.setSkid
  cases src with
  | irq n => exact hx
  | trap t => cases t <;> simp only [hx]

/-- What an entry does after its pushes: SR and CORCON change in the level and in the bits no rule gives, INTTREG is
latched, and nothing else changes but the loop state, the skid counter of an entered trap, and the old mask values. -/
theorem State.enterLevel_frame (s : State) (src : Source) (level : Nat) :
    s.enterLevel src level = { s with sr := (s.enterLevel src level).sr, corcon := (s.enterLevel src level).corcon,
                                      inttreg := ((s.setLevel src level).latch src level).inttreg,
                                      doStack := (s.enterLevel src level).doStack,
                                      rpt := (s.enterLevel src level).rpt,
                                      lag := { gie := none, masks := [] },
                                      skid := (s.clearSkidOf src).skid,
                                      draws := (s.enterLevel src level).draws }
      ∧ (∀ j, j < 4 ∨ 10 ≤ j ∨ j = 8 → (s.enterLevel src level).sr.getLsbD j = s.sr.getLsbD j)
      ∧ (∀ j, j ≠ 2 → j ≠ 3 → j < 8 ∨ 11 ≤ j → (s.enterLevel src level).corcon.getLsbD j = s.corcon.getLsbD j)
      ∧ (s.enterLevel src level).ipl3 = (match src with | .trap _ => true | .irq _ => false)
      ∧ (s.enterLevel src level).ipl = (match src with
          | .trap _ => (level - 8) % 8
          | .irq _ => if s.nstdis then 7 else level % 8)
      ∧ (s.enterLevel src level).doLevel ≤ 4 := by
  obtain ⟨e1, hsr, hco, h3, hi⟩ := s.setLevel_frame src level
  have e2 := (s.setLevel src level).latch_frame src level
  have hu : s.enterLevel src level =
      (((s.setLevel src level).latch src level).loseLoopState.clearSkidOf src).clearLag := rfl
  generalize hx : s.setLevel src level = x at e1 hsr hco h3 hi e2 hu ⊢
  generalize hy : x.latch src level = y at e2 hu ⊢
  obtain ⟨f1, f2, f3, f4⟩ := y.loseLoopState_frame
  have e4 := y.loseLoopState.clearSkidOf_frame src
  have e5 : y.loseLoopState.skid = s.skid := by rw [f1, e2, e1]
  have e6 := State.clearSkidOf_skid y.loseLoopState s src e5
  have hysr : y.sr = x.sr := by rw [e2]
  have hyco : y.corcon = x.corcon := by rw [e2]
  have hs1 : (s.enterLevel src level).sr = y.loseLoopState.sr := by rw [hu, e4]; rfl
  have hc1 : (s.enterLevel src level).corcon = y.loseLoopState.corcon := by rw [hu, e4]; rfl
  refine ⟨?_, fun j hj => ?_, fun j h2 h3 h8 => ?_, ?_, ?_, ?_⟩
  · rw [hu, e4, e6, f1, e2, e1]; rfl
  · rw [hs1, f2 j (by omega) (by omega), hysr, hsr j (by omega)]
  · rw [hc1, f3 j h2 h8, hyco, hco j h3]
  · rw [← h3]
    show (s.enterLevel src level).corcon.getLsbD 3 = x.corcon.getLsbD 3
    rw [hc1, f3 3 (by omega) (by omega), hyco]
  · rw [← hi]
    show ((s.enterLevel src level).sr.extractLsb' 5 3).toNat = (x.sr.extractLsb' 5 3).toNat
    rw [hs1, extract_congr 5 3 (fun j h5 h8 => f2 j (by omega) (by omega)), hysr]
  · show ((s.enterLevel src level).corcon.extractLsb' 8 3).toNat ≤ 4
    rw [hc1]; exact f4

/-- The vector of a source, by its location in the vector table (R85) or in Auxiliary Flash. -/
theorem State.vectorHolds_iff (s : State) (src : Source) (v : PAddr) :
    s.vectorHolds (vecAddr (s.vectorNumber src)) v ↔
      cellGet s.prog (s.vectorAddr src) = some (.word v) ∧ v.getLsbD 0 = false ∧ v.getLsbD 23 = false := by
  unfold State.vectorHolds State.vectorAddr
  cases s.cfg.aux with
  | none => exact Iff.rfl
  | some x => simp only; split <;> exact Iff.rfl

/-- Everything an entry can answer with a next state: a device Reset on a hard trap conflict of its own pushes, or the
vector's address as `pc` after the pushes, the new level and the countdown. -/
theorem enterException_next (src : Source) (level : Nat) (s t : State) (h : enterException src level s = .next t) :
    s.pushFrame (frameA s.pc s.sfa) (frameB s.srl s.ipl3 s.pc) = .cut t
      ∨ ∃ pushed v, s.pushFrame (frameA s.pc s.sfa) (frameB s.srl s.ipl3 s.pc) = .go pushed
          ∧ s.vectorHolds (vecAddr (s.vectorNumber src)) v
          ∧ t = ((pushed.enterLevel src level).setPc v).countdown s.entryMin s.entryMax := by
  unfold enterException at h
  cases hp : s.pushFrame (frameA s.pc s.sfa) (frameB s.srl s.ipl3 s.pc) with
  | cut u => rw [hp] at h; injection h with h; exact .inl (h ▸ rfl)
  | fault f => rw [hp] at h; cases h
  | refused r => rw [hp] at h; cases h
  | go pushed =>
    rw [hp, Flow.bind_go] at h
    unfold State.loadVector at h
    split at h
    · rename_i v hv
      split at h
      · cases h
      · rename_i hb
        simp only [Bool.or_eq_true, not_or, Bool.not_eq_true] at hb
        injection h with h
        exact .inr ⟨pushed, v, rfl, (s.vectorHolds_iff src v).mpr ⟨hv, hb.1, hb.2⟩, h.symm⟩
    · cases h
    · cases h
    · cases h

/-- An entry whose pushes go on and whose vector is programmed. -/
theorem enterException_go (src : Source) (level : Nat) (s pushed : State) (v : PAddr)
    (hp : s.pushFrame (frameA s.pc s.sfa) (frameB s.srl s.ipl3 s.pc) = .go pushed)
    (hv : s.vectorHolds (vecAddr (s.vectorNumber src)) v) :
    enterException src level s =
      .next (State.countdown { pushed.enterLevel src level with pc := v } s.entryMin s.entryMax) := by
  obtain ⟨h1, h2, h3⟩ := (s.vectorHolds_iff src v).mp hv
  unfold enterException State.loadVector
  rw [hp, Flow.bind_go, h1]
  simp only [h2, h3, Bool.or_self, Bool.false_eq_true, if_false, Flow.outcome_go]
  rw [State.setPc_of_aligned _ v h2 h3]

/-- An entry with room on the stack and a programmed vector. -/
theorem enterException_ready (src : Source) (level : Nat) (s : State) (v : PAddr) (hr : s.pushReady)
    (hv : s.vectorHolds (vecAddr (s.vectorNumber src)) v) :
    enterException src level s = .next
      (State.countdown { State.enterLevel (((s.setReg 15 (s.sp + 4#16)).writeWord s.sp (frameA s.pc s.sfa)).writeWord
          (s.sp + 2#16) (frameB s.srl s.ipl3 s.pc)) src level with pc := v } s.entryMin s.entryMax) :=
  enterException_go src level s _ v (State.pushFrame_ready s _ _ hr) hv

end Sys2Proof.Machine
end

