-- ==== Sys2Proof/Laws/Boundary.lean ====
section
/-! SUPPORT. What arbitration chooses among the traps and among the interrupts, when the CPU wakes, and what choosing the
next action does to the state. -/

namespace Sys2Proof.Machine

/-! ### Traps -/

theorem State.trapLevel_injective (s : State) (t u : Trap) (h : s.trapLevel t = s.trapLevel u) : t = u := by
  cases t <;> cases u <;> simp only [State.trapLevel] at h <;> first | rfl | (split at h <;> omega) | omega

theorem State.trapLevel_bounds (s : State) (t : Trap) : 8 ≤ s.trapLevel t ∧ s.trapLevel t ≤ 15 := by
  cases t <;> simp only [State.trapLevel] <;> first | omega | (split <;> omega)

/-- The hard traps are those of level 13 and above (R203). -/
theorem State.trapIsSoft_iff (s : State) (t : Trap) : trapIsSoft t = true ↔ s.trapLevel t < 13 := by
  cases t <;> simp only [trapIsSoft, State.trapLevel] <;> first | (simp; done) | (split <;> simp)

theorem trapsByLevel_sorted (s : State) : trapsByLevel.Pairwise (fun a b => s.trapLevel b < s.trapLevel a) := by
  unfold trapsByLevel
  simp only [List.pairwise_cons, List.mem_cons, List.not_mem_nil, or_false, forall_eq_or_imp, forall_eq, State.trapLevel]
  split <;> simp

theorem find?_of_pairwise {α : Type} (R : α → α → Prop) (p : α → Bool) (l : List α) (hl : l.Pairwise R) (x : α)
    (h : l.find? p = some x) : ∀ y ∈ l, p y = true → y = x ∨ R x y := by
  induction l with
  | nil => simp at h
  | cons a l ih =>
    obtain ⟨ha, hl'⟩ := List.pairwise_cons.mp hl
    rw [List.find?_cons] at h
    split at h
    · injection h with h; subst h
      intro y hy _
      rcases List.mem_cons.mp hy with rfl | hy
      · exact .inl rfl
      · exact .inr (ha y hy)
    · rename_i hpa
      intro y hy hp
      rcases List.mem_cons.mp hy with rfl | hy
      · rw [hpa] at hp; cases hp
      · exact ih hl' h y hy hp

/-- The trap step of arbitration finds nothing exactly when no pending trap is above the CPU level. -/
theorem State.bestTrap_none (s : State) :
    s.bestTrap = none ↔ ¬ ∃ t, s.trapPending t = true ∧ s.cpuIpl < s.trapLevel t := by
  unfold State.bestTrap
  rw [List.find?_eq_none]
  constructor
  · rintro h ⟨t, hp, hl⟩; exact h t (mem_trapsByLevel t) (by simp [hp, hl])
  · intro h t _ hp
    simp only [Bool.and_eq_true, decide_eq_true_eq] at hp
    exact h ⟨t, hp⟩

/-- A search of the traps in falling order of level finds the one of greatest level. -/
theorem find?_trapsByLevel (s : State) (p : Trap → Bool) (t : Trap) :
    trapsByLevel.find? p = some t ↔ p t = true ∧ ∀ u, p u = true → u = t ∨ s.trapLevel u < s.trapLevel t := by
  have fwd (x : Trap) (h : trapsByLevel.find? p = some x) :
      p x = true ∧ ∀ u, p u = true → u = x ∨ s.trapLevel u < s.trapLevel x :=
    ⟨List.find?_some h, fun u hu => find?_of_pairwise _ _ _ (trapsByLevel_sorted s) x h u (mem_trapsByLevel u) hu⟩
  refine ⟨fwd t, fun ⟨hp, hmax⟩ => ?_⟩
  cases hb : trapsByLevel.find? p with
  | none => exact absurd hp (List.find?_eq_none.mp hb t (mem_trapsByLevel t))
  | some x =>
    obtain ⟨xp, xmax⟩ := fwd x hb
    rcases hmax x xp with rfl | h1
    · rfl
    · rcases xmax t hp with rfl | h2
      · rfl
      · omega

/-- The trap step of arbitration finds the pending trap of greatest level above the CPU level. -/
theorem State.bestTrap_some (s : State) (t : Trap) :
    s.bestTrap = some t ↔ s.trapPending t = true ∧ s.cpuIpl < s.trapLevel t
      ∧ ∀ u, s.trapPending u = true → s.cpuIpl < s.trapLevel u → u = t ∨ s.trapLevel u < s.trapLevel t := by
  unfold State.bestTrap
  rw [find?_trapsByLevel s]
  simp only [Bool.and_eq_true, decide_eq_true_eq, and_imp, and_assoc]

/-! ### Interrupts -/

theorem State.bestIrq_none (s : State) (k : Nat) : s.bestIrq k = none ↔ ∀ n, n < k → s.candidate n = false := by
  induction k with
  | zero => simp [State.bestIrq]
  | succ k ih =>
    unfold State.bestIrq
    constructor
    · intro h
      cases hb : s.bestIrq k with
      | some m => rw [hb] at h; simp only at h; split at h <;> cases h
      | none =>
        rw [hb] at h
        simp only at h
        split at h
        · cases h
        · rename_i hc
          intro n hn
          rcases Nat.lt_succ_iff_lt_or_eq.mp hn with h1 | h1
          · exact ih.mp hb n h1
          · subst h1; simpa using hc
    · intro h
      have : s.bestIrq k = none := ih.mpr (fun n hn => h n (by omega))
      rw [this]
      simp [h k (by omega)]

/-- The interrupt step of arbitration finds the candidate of greatest priority, the least number on a tie. -/
theorem State.bestIrq_some (s : State) (k n : Nat) :
    s.bestIrq k = some n ↔ n < k ∧ s.candidate n = true
      ∧ ∀ m, m < k → s.candidate m = true →
          s.irqPriority m < s.irqPriority n ∨ (s.irqPriority m = s.irqPriority n ∧ n ≤ m) := by
  have fwd : ∀ k n, s.bestIrq k = some n → n < k ∧ s.candidate n = true
      ∧ ∀ m, m < k → s.candidate m = true →
          s.irqPriority m < s.irqPriority n ∨ (s.irqPriority m = s.irqPriority n ∧ n ≤ m) := by
    intro k
    induction k with
    | zero => intro n h; cases h
    | succ k ih =>
      intro n h
      unfold State.bestIrq at h
      cases hb : s.bestIrq k with
      | none =>
        rw [hb] at h
        simp only at h
        split at h
        · rename_i hc
          injection h with h; subst h
          refine ⟨by omega, hc, fun m hm hcm => ?_⟩
          rcases Nat.lt_succ_iff_lt_or_eq.mp hm with h1 | h1
          · rw [(State.bestIrq_none s k).mp hb m h1] at hcm; cases hcm
          · subst h1; exact .inr ⟨rfl, Nat.le_refl _⟩
        · cases h
      | some x =>
        obtain ⟨xk, xc, xm⟩ := ih x hb
        rw [hb] at h
        simp only at h
        split at h
        · rename_i hc
          simp only [Bool.and_eq_true, decide_eq_true_eq] at hc
          injection h with h; subst h
          refine ⟨by omega, hc.1, fun m hm hcm => ?_⟩
          rcases Nat.lt_succ_iff_lt_or_eq.mp hm with h1 | h1
          · rcases xm m h1 hcm with h2 | h2 <;> omega
          · subst h1; exact .inr ⟨rfl, Nat.le_refl _⟩
        · rename_i hc
          simp only [Bool.and_eq_true, decide_eq_true_eq, not_and, Nat.not_lt] at hc
          injection h with h; subst h
          refine ⟨by omega, xc, fun m hm hcm => ?_⟩
          rcases Nat.lt_succ_iff_lt_or_eq.mp hm with h1 | h1
          · exact xm m h1 hcm
          · subst h1; have := hc hcm; omega
  refine ⟨fwd k n, fun ⟨hn, hc, hm⟩ => ?_⟩
  cases hb : s.bestIrq k with
  | none => rw [(State.bestIrq_none s k).mp hb n hn] at hc; cases hc
  | some x =>
    obtain ⟨xk, xc, xm⟩ := fwd k x hb
    have h1 := hm x xk xc
    have h2 := xm n hn hc
    have : x = n := by omega
    rw [this]

/-- Arbitration answers a trap when its trap step finds one. -/
theorem State.arbitrate_trap (s : State) (t : Trap) (level : Nat) :
    s.arbitrate = some (.trap t, level) ↔ s.bestTrap = some t ∧ level = s.trapLevel t := by
  unfold State.arbitrate
  cases h1 : s.bestTrap with
  | some u =>
    simp only [Option.some.injEq, Prod.mk.injEq, Source.trap.injEq]
    constructor
    · rintro ⟨rfl, rfl⟩; exact ⟨rfl, rfl⟩
    · rintro ⟨rfl, rfl⟩; exact ⟨rfl, rfl⟩
  | none => cases h2 : s.bestIrq 246 <;> simp

/-- Arbitration answers an interrupt when its trap step finds none and its interrupt step finds one. -/
theorem State.arbitrate_irq (s : State) (n level : Nat) :
    s.arbitrate = some (.irq n, level) ↔ s.bestTrap = none ∧ s.bestIrq 246 = some n ∧ level = s.irqPriority n := by
  unfold State.arbitrate
  cases h1 : s.bestTrap with
  | some u => simp
  | none =>
    cases h2 : s.bestIrq 246 with
    | none => simp
    | some m =>
      simp only [Option.some.injEq, Prod.mk.injEq, Source.irq.injEq, true_and]
      constructor
      · rintro ⟨rfl, rfl⟩; exact ⟨rfl, rfl⟩
      · rintro ⟨rfl, rfl⟩; exact ⟨rfl, rfl⟩

theorem State.arbitrate_none (s : State) : s.arbitrate = none ↔ s.bestTrap = none ∧ s.bestIrq 246 = none := by
  unfold State.arbitrate
  cases h1 : s.bestTrap with
  | some u => simp
  | none => cases h2 : s.bestIrq 246 <;> simp

/-- The wake-up condition of R280 over the sources below k. -/
theorem State.wakesBelow_iff (s : State) (k : Nat) :
    s.wakesBelow k = true ↔ ∃ n, n < k ∧ s.requests n = true ∧ 1 ≤ s.irqPriority n := by
  induction k with
  | zero => simp [State.wakesBelow]
  | succ k ih =>
    unfold State.wakesBelow
    rw [Bool.or_eq_true, ih, Bool.and_eq_true, decide_eq_true_eq]
    constructor
    · rintro (h | ⟨n, h1, h2⟩)
      · exact ⟨k, by omega, h⟩
      · exact ⟨n, by omega, h2⟩
    · rintro ⟨n, h1, h2⟩
      rcases Nat.lt_succ_iff_lt_or_eq.mp h1 with h | h
      · exact .inr ⟨n, h, h2⟩
      · subst h; exact .inl h2

/-! ### What the boundary sees -/

/-- Putting old mask values back changes IECx, IPCx and SR only, so no trap becomes or ceases to be pending. -/
theorem State.withSomeOldMasks_frame (s : State) (ms : List MaskOld) (k : Nat) :
    s.withSomeOldMasks ms k = { s with iec := (s.withSomeOldMasks ms k).iec, ipc := (s.withSomeOldMasks ms k).ipc,
                                       sr := (s.withSomeOldMasks ms k).sr } := by
  induction ms generalizing s k with
  | nil => rfl
  | cons m ms ih =>
    have e : s.withSomeOldMasks (m :: ms) k =
        (if Config.freeNat k % 2 == 1 then s.withOldMask m else s).withSomeOldMasks ms (k + 1) := rfl
    have h1 : s.withOldMask m = { s with iec := (s.withOldMask m).iec, ipc := (s.withOldMask m).ipc,
                                         sr := (s.withOldMask m).sr } := by cases m <;> rfl
    rw [e]
    split
    · rw [ih, h1]
    · exact ih s (k + 1)

theorem State.maskView_trapPending (s : State) (t : Trap) : s.maskView.1.trapPending t = s.trapPending t := by
  unfold State.maskView
  split
  · simp only; rw [State.withSomeOldMasks_frame]; cases t <;> rfl
  · rfl

/-- A trap stops execution when it is hard, pending above the CPU level, and not held by an old level. -/
def State.Stops (s : State) (t : Trap) : Prop :=
  trapIsSoft t = false ∧ s.trapPending t = true ∧ s.cpuIpl < s.trapLevel t ∧ s.heldByOldIpl t = false

/-- `stoppingTrap` finds the stopping trap of greatest level. -/
theorem State.stoppingTrap_some (s : State) (t : Trap) :
    s.stoppingTrap = some t ↔ s.Stops t ∧ ∀ u, s.Stops u → u = t ∨ s.trapLevel u < s.trapLevel t := by
  unfold State.stoppingTrap State.Stops
  rw [find?_trapsByLevel s]
  simp only [Bool.and_eq_true, decide_eq_true_eq, Bool.not_eq_true', and_assoc]

theorem State.stoppingTrap_none (s : State) : s.stoppingTrap = none ↔ ∀ t, ¬ s.Stops t := by
  unfold State.stoppingTrap State.Stops
  rw [List.find?_eq_none]
  simp only [Bool.and_eq_true, decide_eq_true_eq, Bool.not_eq_true', and_assoc]
  exact ⟨fun h t => h t (mem_trapsByLevel t), fun h t _ => h t⟩

/-- Where no trap stops execution the boundary decides what arbitration finds in its view. -/
theorem State.boundaryWinner_of_none (s view : State) (h : ∀ t, ¬ s.Stops t) : s.boundaryWinner view = view.arbitrate := by
  unfold State.boundaryWinner
  rw [(s.stoppingTrap_none).mpr h]

/-- Where one stops execution the boundary decides on it or on a trap of its level or above, which the view finds. -/
theorem State.boundaryWinner_of_stops (s view : State) (h : Trap) (hs : s.Stops h) :
    ∃ t, s.boundaryWinner view = some (.trap t, s.trapLevel t) ∧ s.trapLevel h ≤ s.trapLevel t
      ∧ (s.Stops t ∨ view.bestTrap = some t) := by
  cases hw : s.stoppingTrap with
  | none => exact absurd hs ((s.stoppingTrap_none).mp hw h)
  | some u =>
    obtain ⟨hu, hmax⟩ := (s.stoppingTrap_some u).mp hw
    have hle : s.trapLevel h ≤ s.trapLevel u := by
      rcases hmax h hs with rfl | hlt <;> omega
    unfold State.boundaryWinner
    rw [hw]
    simp only
    split
    · rename_i t hv
      split
      · exact ⟨t, rfl, by omega, .inr hv⟩
      · exact ⟨u, rfl, hle, .inl hu⟩
    · exact ⟨u, rfl, hle, .inl hu⟩

/-- What the boundary decides on a trap is that of a pending trap. -/
theorem State.boundaryWinner_trap (s : State) (t : Trap) (level : Nat)
    (h : s.boundaryWinner s.maskView.1 = some (.trap t, level)) : s.trapPending t = true := by
  have seen (u : Trap) (hu : s.maskView.1.bestTrap = some u) : s.trapPending u = true := by
    rw [← s.maskView_trapPending]
    exact ((State.bestTrap_some _ u).mp hu).1
  by_cases hs : ∃ u, s.Stops u
  · obtain ⟨u, hu⟩ := hs
    obtain ⟨x, hx, -, hp⟩ := s.boundaryWinner_of_stops s.maskView.1 u hu
    rw [h] at hx
    injection hx with hx
    injection hx with hx _
    injection hx with hx
    subst hx
    rcases hp with hp | hp
    · exact hp.2.1
    · exact seen t hp
  · rw [s.boundaryWinner_of_none _ (fun u hu => hs ⟨u, hu⟩)] at h
    exact seen t ((State.arbitrate_trap _ t level).mp h).1

/-! ### The next action -/

/-- What one boundary does to the skid counters: it keeps them, or counts one more for a pending soft trap that had counted
fewer than 2, and runs. -/
def SkidStep (s t : State) (a : Action) : Prop :=
  t.skid = s.skid ∨ ∃ u, s.trapPending u = true ∧ s.skidOf u < 2 ∧ a = .run [] ∧ t.skid = (s.setSkid u (s.skidOf u + 1)).skid

theorem setSkid_skid_congr {x s : State} (h : x.skid = s.skid) (t : Trap) (n : Nat) :
    (x.setSkid t n).skid = (s.setSkid t n).skid := by
  cases t <;> simp [State.setSkid, h]

theorem skidOf_congr {x s : State} (h : x.skid = s.skid) (t : Trap) : x.skidOf t = s.skidOf t := by
  cases t <;> simp [State.skidOf, h]

/-- The soft trap skid draws, and counts. -/
theorem State.enterOrSkid_frame (s : State) (t : Trap) (level : Nat) :
    (s.enterOrSkid t level).2 = { s with skid := (s.enterOrSkid t level).2.skid, draws := (s.enterOrSkid t level).2.draws }
      ∧ (s.trapPending t = true → SkidStep s (s.enterOrSkid t level).2 (s.enterOrSkid t level).1) := by
  unfold State.enterOrSkid
  split
  · rename_i hc
    simp only [Bool.and_eq_true, decide_eq_true_eq] at hc
    split
    · exact ⟨by cases t <;> rfl, fun hp => .inr ⟨t, hp, hc.2, rfl, by cases t <;> rfl⟩⟩
    · exact ⟨rfl, fun _ => .inl rfl⟩
  · exact ⟨rfl, fun _ => .inl rfl⟩

theorem State.sampleGie_frame (s : State) :
    s.sampleGie = { s with gieSeen := s.sampleGie.gieSeen, draws := s.sampleGie.draws } := by
  unfold State.sampleGie; split <;> rfl

theorem State.maskView_frame (s : State) : s.maskView.2 = { s with draws := s.maskView.2.draws } := by
  unfold State.maskView; split <;> rfl

/-- A boundary samples GIE, counts a skid, draws, and changes nothing else. -/
theorem State.atBoundary_frame (s : State) :
    s.atBoundary.2 = { s with gieSeen := s.atBoundary.2.gieSeen, skid := s.atBoundary.2.skid,
                              draws := s.atBoundary.2.draws }
      ∧ SkidStep s s.atBoundary.2 s.atBoundary.1 := by
  have hs := s.sampleGie_frame
  have hm := s.sampleGie.maskView_frame
  have hk : s.sampleGie.maskView.2.skid = s.skid := by rw [hm, hs]
  unfold State.atBoundary
  simp only
  split
  · exact ⟨by rw [hm, hs], .inl hk⟩
  · rename_i t level hb
    have hp : s.sampleGie.maskView.2.trapPending t = true := by
      have := s.sampleGie.boundaryWinner_trap t level hb
      rw [hm]; cases t <;> exact this
    obtain ⟨h1, h2⟩ := s.sampleGie.maskView.2.enterOrSkid_frame t level
    refine ⟨?_, ?_⟩
    · generalize s.sampleGie.maskView.2.enterOrSkid t level = p at h1 ⊢
      rw [h1, hm, hs]
    · rcases h2 hp with h | ⟨u, hu, hlt, ha, h⟩
      · exact .inl (h.trans hk)
      · refine .inr ⟨u, ?_, ?_, ha, ?_⟩
        · rw [hm, hs] at hu; cases u <;> exact hu
        · rw [← skidOf_congr hk u]; exact hlt
        · rw [h, skidOf_congr hk u]; exact setSkid_skid_congr hk u _
  · exact ⟨by rw [hm, hs], .inl hk⟩

/-- The CPU's turn is a boundary while it runs, and changes nothing while it sleeps. -/
theorem State.cpuTurn_frame (s : State) :
    s.cpuTurn.2 = { s with gieSeen := s.cpuTurn.2.gieSeen, skid := s.cpuTurn.2.skid, draws := s.cpuTurn.2.draws }
      ∧ SkidStep s s.cpuTurn.2 s.cpuTurn.1 := by
  unfold State.cpuTurn
  split
  · exact s.atBoundary_frame
  · split <;> exact ⟨rfl, .inl rfl⟩
  · split <;> exact ⟨rfl, .inl rfl⟩

/-- Choosing the next action takes a turn from the agenda, samples GIE, counts a skid, draws, and changes nothing else. -/
theorem State.nextAction_frame (s : State) :
    s.nextAction.2 = { s with agenda := s.nextAction.2.agenda, gieSeen := s.nextAction.2.gieSeen,
                              skid := s.nextAction.2.skid, draws := s.nextAction.2.draws } := by
  have hmeet (during : List (List Event)) (p : Action × State) :
      (meetEvents during p).2 = { p.2 with agenda := (meetEvents during p).2.agenda } := by
    unfold meetEvents; split <;> rfl
  unfold State.nextAction
  split
  · have : s.cpuTurn.2.agenda = s.agenda := by rw [s.cpuTurn_frame.1]
    rw [this]; exact s.cpuTurn_frame.1
  · rename_i during rest _
    have hc := s.cpuTurn_frame.1
    generalize s.cpuTurn = p at hc ⊢
    have hm := hmeet during (p.1, { p.2 with agenda := rest })
    generalize meetEvents during (p.1, { p.2 with agenda := rest }) = q at hm ⊢
    rw [hm, hc]
  · rfl

/-- When it is the running CPU's turn, the next action is that of the boundary: what it enters is entered, and the events that
were to occur during an instruction come next. -/
theorem State.nextAction_enter (s : State) (during : List (List Event)) (h : s.cpuRuns during) (src : Source) (level : Nat)
    (ha : s.atBoundary.1 = .enter src level) :
    s.nextAction =
      (.enter src level, { s.atBoundary.2 with agenda := during.flatten.map .event ++ s.agenda.tail }) := by
  obtain ⟨hp, hc⟩ := h
  have ht : s.cpuTurn = s.atBoundary := by unfold State.cpuTurn; rw [hp]
  rcases hc with ⟨h1, rfl⟩ | ⟨rest, h1⟩
  · have hf := s.atBoundary_frame.1
    unfold State.nextAction
    rw [h1]
    show s.cpuTurn = _
    rw [ht]
    refine Prod.ext ha ?_
    rw [← h1]
    exact hf.trans (by rw [hf]; simp [h1])
  · unfold State.nextAction
    rw [h1]
    show meetEvents during (s.cpuTurn.1, { s.cpuTurn.2 with agenda := rest }) = _
    rw [ht, ha]
    rfl

/-- What runs there runs with them. -/
theorem State.nextAction_run (s : State) (during : List (List Event)) (h : s.cpuRuns during) (ha : s.atBoundary.1 = .run []) :
    s.nextAction = (.run during, { s.atBoundary.2 with agenda := s.agenda.tail }) := by
  obtain ⟨hp, hc⟩ := h
  have ht : s.cpuTurn = s.atBoundary := by unfold State.cpuTurn; rw [hp]
  rcases hc with ⟨h1, rfl⟩ | ⟨rest, h1⟩
  · have hf := s.atBoundary_frame.1
    unfold State.nextAction
    rw [h1]
    show s.cpuTurn = _
    rw [ht]
    refine Prod.ext ha ?_
    rw [← h1]
    exact hf.trans (by rw [hf]; simp [h1])
  · unfold State.nextAction
    rw [h1]
    show meetEvents during (s.cpuTurn.1, { s.cpuTurn.2 with agenda := rest }) = _
    rw [ht, ha]
    rfl

/-- The skid counters after choosing the next action: at most 2, and not 0 only while the trap is pending. -/
theorem State.nextAction_skid (s : State) (h : ∀ t, s.skidOf t ≤ 2 ∧ (s.skidOf t ≠ 0 → s.trapPending t = true)) :
    ∀ t, s.nextAction.2.skidOf t ≤ 2 ∧ (s.nextAction.2.skidOf t ≠ 0 → s.nextAction.2.trapPending t = true) := by
  have hpend (u : Trap) : s.nextAction.2.trapPending u = s.trapPending u := by
    rw [State.nextAction_frame]; cases u <;> rfl
  have key : s.nextAction.2.skid = s.skid ∨ ∃ u, s.trapPending u = true ∧ s.skidOf u < 2
      ∧ s.nextAction.2.skid = (s.setSkid u (s.skidOf u + 1)).skid := by
    have of {x : State} {a : Action} {t : State} (hx : x.skid = s.skid) (hp : ∀ u, x.trapPending u = s.trapPending u)
        (h : SkidStep x t a) : t.skid = s.skid ∨ ∃ u, s.trapPending u = true ∧ s.skidOf u < 2
          ∧ t.skid = (s.setSkid u (s.skidOf u + 1)).skid := by
      rcases h with h | ⟨u, h1, h2, -, h3⟩
      · exact .inl (h.trans hx)
      · refine .inr ⟨u, by rw [← hp]; exact h1, by rw [← skidOf_congr hx]; exact h2, ?_⟩
        rw [h3, skidOf_congr hx]; exact setSkid_skid_congr hx u _
    unfold State.nextAction
    split
    · exact of rfl (fun _ => rfl) s.cpuTurn_frame.2
    · rename_i during rest _
      have := of rfl (fun _ => rfl) s.cpuTurn_frame.2
      unfold meetEvents
      split <;> exact this
    · exact .inl rfl
  intro u
  rw [hpend]
  rcases key with hk | ⟨t, hp, hlt, hk⟩
  · rw [skidOf_congr hk]; exact h u
  · rw [skidOf_congr hk]
    by_cases hut : u = t
    · subst hut
      refine ⟨?_, fun _ => hp⟩
      have : (s.setSkid u (s.skidOf u + 1)).skidOf u = s.skidOf u + 1 ∨ (s.setSkid u (s.skidOf u + 1)).skidOf u = 0 := by
        cases u <;> simp [State.skidOf, State.setSkid]
      omega
    · have : (s.setSkid t (s.skidOf t + 1)).skidOf u = s.skidOf u := by
        cases u <;> cases t <;> first | rfl | exact absurd rfl hut
      rw [this]; exact h u

end Sys2Proof.Machine
end

