-- ==== Sys2Proof/Laws/PerInstr.lean ====
section
/-! SUPPORT. Statements for all instructions, made per instruction: how many words each one's encoding has (R111, R112). -/

namespace Sys2Proof.Laws.EncodedLength

/-- An instruction has an encoding exactly when R112 gives it one, of as many words as R111 says. -/
def Statement (i : Instr) : Prop := ((encode i).isSome = i.encoded) ∧ ∀ ws, encode i = some ws → ws.length = i.words

theorem nop : Statement .nop := by simp [Statement, encode, Instr.encoded, Instr.words]
theorem goto (target : PAddr) : Statement (.goto target) := by simp [Statement, encode, Instr.encoded, Instr.words]
theorem ret : Statement .ret := by simp [Statement, encode, Instr.encoded, Instr.words]
theorem retfie : Statement .retfie := by simp [Statement, encode, Instr.encoded, Instr.words]
theorem bra (offset : Word) : Statement (.bra offset) := by simp [Statement, encode, Instr.encoded, Instr.words]
theorem disi (k : BitVec 14) : Statement (.disi k) := by simp [Statement, encode, Instr.encoded, Instr.words]
theorem reset : Statement .reset := by simp [Statement, encode, Instr.encoded, Instr.words]
theorem pwrsav (m : LowPower) : Statement (.pwrsav m) := by
  cases m <;> simp [Statement, encode, Instr.encoded, Instr.words]
theorem rept : Statement .rept := by simp [Statement, encode, Instr.encoded]
theorem div (divisor : Fin 16) : Statement (.div divisor) := by simp [Statement, encode, Instr.encoded]
theorem sftac (acc : AccName) (amount : ShiftAmount) : Statement (.sftac acc amount) := by
  simp [Statement, encode, Instr.encoded]
theorem doLoop : Statement .doLoop := by simp [Statement, encode, Instr.encoded]
theorem movD (src : Operand) (dst : Fin 16) : Statement (.movD src dst) := by simp [Statement, encode, Instr.encoded]
theorem tblrd (dst : Fin 16) : Statement (.tblrd dst) := by simp [Statement, encode, Instr.encoded]
theorem btsc (src : Operand) (bit : Fin 16) : Statement (.btsc src bit) := by simp [Statement, encode, Instr.encoded]
theorem btss (src : Operand) (bit : Fin 16) : Statement (.btss src bit) := by simp [Statement, encode, Instr.encoded]
theorem read (r : RegName) : Statement (.read r) := by simp [Statement, encode, Instr.encoded]
theorem write (r : RegName) (v : Word) : Statement (.write r v) := by simp [Statement, encode, Instr.encoded]
theorem writeField (f : FieldName) (v : Word) : Statement (.writeField f v) := by simp [Statement, encode, Instr.encoded]

end Sys2Proof.Laws.EncodedLength
end

