-- ==== Sys2Proof/Laws/Step.lean ====
section
/-! SUPPORT. Everything a step can do, said once, and how a property of the state passes through the events that occur during
an instruction and through an instruction outside the table. -/

namespace Sys2Proof.Machine

/-! ### Events and instructions outside the table -/

theorem State.KeepsCpu.refl (s : State) : s.KeepsCpu s := by constructor <;> rfl

/-- A trap event that does not reset the device reaches none of the fields outside the trap registers. -/
theorem raiseCause_go {c : Cause} {s u : State} (h : raiseCause c s = .go u) : s.KeepsCpu u := by
  have e : raiseAll [c] s = (raiseCause c s).bind fun s1 => raiseAll [] s1 := rfl
  obtain ⟨x, hx, hk | hk⟩ := raiseAll_cases [c] s <;> rw [e, h] at hk
  · cases hk; exact hx.keepsCpu
  · cases hk

/-- An event of another agent that does not reset the device changes only registers, data memory and the trap state. -/
theorem Event.apply_go {e : Event} {s u : State} (h : e.apply s = .go u) : s.KeepsCpu u := by
  have dma (ea : Word) (wide : Bool) (v : Word) (h : s.dmaStore ea wide v = .go u) : s.KeepsCpu u := by
    unfold State.dmaStore at h
    split at h
    · cases h; exact .refl s
    · split at h
      · split at h
        · rename_i r _
          obtain ⟨x, hx, hk⟩ := (Flow.bind_eq_go _ _ _).mp h
          cases hk
          unfold State.writeRegAt at hx
          rcases s.writeReg_cases r _ _ with ⟨h', -⟩ | ⟨y, hy, h' | h'⟩ <;> rw [h'] at hx <;> cases hx
          exact hy.cpu.trans (by constructor <;> rfl)
        · cases h
          rw [State.store_frame]; constructor <;> rfl
      · exact raiseCause_go h
  have flag (n : Irq) : s.KeepsCpu (s.setIrqFlag n) := by
    unfold State.setIrqFlag; split <;> constructor <;> rfl
  have same (x : State) (h : Flow.go x = .go u) (hx : s.KeepsCpu x) : s.KeepsCpu u := by cases h; exact hx
  cases e with
  | irq n => exact same _ h (flag n)
  | extEdge k dir =>
    refine same _ h ?_
    cases dir <;> simp only [State.extEdge] <;> split <;> first | exact .refl s | exact flag _
  | oscFail =>
    exact State.KeepsCpu.trans (u := { s with osccon := setBit s.osccon 3 true }) (by constructor <;> rfl)
      (raiseCause_go (c := .oscillator) h)
  | dmaByte ea v => exact dma _ _ _ h
  | dmaWord half v => exact dma _ _ _ h
  | doLoopEnd =>
    unfold Event.apply at h
    simp only at h
    split at h
    · refine same _ h ?_
      unfold State.endLoop
      split
      · exact .refl s
      · split <;> constructor <;> rfl
    · exact same s h (.refl s)
  | externalReset => cases h
  | dmaCollision | dmaAddrErr | usbAccess off =>
    unfold Event.apply at h
    simp only at h
    split at h <;> first | exact raiseCause_go h | exact same s h (.refl s)

/-- A group of events without a Reset changes only registers, data memory and the trap state. -/
theorem happen_go {es : List Event} {s u : State} (h : happen es s = .go u) : s.KeepsCpu u := by
  induction es generalizing s with
  | nil => injection h with h; exact h ▸ .refl s
  | cons e es ih =>
    unfold happen at h
    cases he : e.apply s with
    | go x => rw [he] at h; exact (Event.apply_go he).trans (ih h)
    | cut x => rw [he] at h; cases h
    | fault f => rw [he] at h; cases h
    | refused r => rw [he] at h; cases h

/-- A property that every event keeps, and that does not read the events still to come, is kept by a group of events. -/
theorem happen_leaves {P : State → Prop} (he : ∀ e s, P s → (Event.apply e s).Leaves P)
    (ha : ∀ s groups, P s → P { s with meanwhile := groups }) (es : List Event) (s : State) (hs : P s) :
    (happen es s).Leaves P := by
  induction es generalizing s with
  | nil => exact hs
  | cons e es ih =>
    have h1 := he e s hs
    unfold happen
    cases h : e.apply s with
    | go u => rw [h] at h1; exact ih u h1
    | cut u => rw [h] at h1; exact ha u _ h1
    | fault f => trivial
    | refused r => trivial

/-- Such a property is kept by the group of events before the next data access. -/
theorem State.meet_leaves {P : State → Prop} (he : ∀ e s, P s → (Event.apply e s).Leaves P)
    (ha : ∀ s groups, P s → P { s with meanwhile := groups }) (s : State) (hs : P s) : s.meet.Leaves P := by
  unfold State.meet
  split
  · exact hs
  · exact happen_leaves he ha _ _ (ha s _ hs)

/-- Such a property is kept when an instruction begins, if it does not read the old mask values. -/
theorem State.begin_leaves {P : State → Prop} (he : ∀ e s, P s → (Event.apply e s).Leaves P)
    (ha : ∀ s groups, P s → P { s with meanwhile := groups }) (hc : ∀ s, P s → P s.clearLag) (s : State)
    (during : List (List Event)) (hs : P s) : (s.begin during).Leaves P :=
  State.meet_leaves he ha _ (ha _ _ (hc s hs))

/-- A property that every act of an instruction outside the table keeps, and the events between its acts, is kept by all of
them. -/
theorem runActs_leaves {P : State → Prop} (start : State) (inhibited : Bool) (hm : ∀ s, P s → s.meet.Leaves P)
    (acts : List CpuAct) (he : ∀ act ∈ acts, ∀ earlier s, P s → (CpuAct.run start inhibited earlier act s).Leaves P)
    (earlier : List Trap) (missed : Bool) (s : State) (hs : P s) :
    (runActs start inhibited earlier missed acts s).Leaves P := by
  induction acts generalizing s earlier missed with
  | nil => unfold runActs; split <;> trivial
  | cons a acts ih =>
    unfold runActs
    refine (he a List.mem_cons_self _ s hs).bind fun u hu => Flow.Leaves.bind ?_ fun x hx =>
      ih (fun b hb => he b (List.mem_cons_of_mem _ hb)) _ _ x hx
    split
    · exact hu
    · exact hm u hu

/-- What a next state of an instruction outside the table comes from: a Reset cut its acts short, or they left it in x, where
the instruction advances. -/
theorem execOutside_next (acts : List CpuAct) (s t : State) (h : execOutside acts s = .next t) :
    runActs s (s.actsInhibited acts) [] false acts s = .cut t
      ∨ ∃ x, runActs s (s.actsInhibited acts) [] false acts s = .go x ∧ x.advance 1 = t :=
  (Flow.thenAdvance_eq_next _ t).mp h

/-- An instruction outside the table that does one thing. -/
theorem execOutside_one (act : CpuAct) (s : State) :
    execOutside [act] s = ((raiseAll (act.causes s) s).bind fun x =>
      (act.effect s ((act.causes s).contains .address) .none x).bind fun y =>
        if act.readsUnwritten s s then .fault .readOfUnwrittenMemory else .go y).thenAdvance := by
  have e : s.actsInhibited [act] = (act.causes s).contains .address := by simp [State.actsInhibited]
  unfold execOutside runActs CpuAct.run
  rw [e]
  simp only [State.drawEarlier_nil, List.isEmpty_nil, if_true, Bool.false_or, runActs]
  cases raiseAll (act.causes s) s .none with
  | go x => cases act.effect s ((act.causes s).contains .address) .none x <;> simp
  | cut x => rfl
  | fault f => rfl
  | refused r => rfl

/-! ### What the next boundary may still see -/

/-- A trap event leaves the old mask values alone. -/
theorem raiseAll_lag {cs : List Cause} {s u : State} {earlier : Earlier} (h : raiseAll cs s earlier = .go u) :
    u.lag = s.lag := by
  obtain ⟨z, hz, hk | hk⟩ := raiseAll_cases cs s earlier <;> rw [h] at hk
  · cases hk; rw [hz.rest]
  · cases hk

theorem raiseCause_lag {c : Cause} {s u : State} (h : raiseCause c s = .go u) : u.lag = s.lag :=
  raiseAll_lag (cs := [c]) (earlier := .none) (by
    show (raiseCause c s).bind (fun s1 => raiseAll [] s1) = .go u
    rw [h]; rfl)

/-- A software write adds an old GIE only to a write of INTCON2, and an old mask value only of the register written. -/
theorem State.writeReg_lag {s u : State} {r : RegName} {mask v : Word} {earlier : Earlier}
    (h : s.writeReg r mask v earlier = .go u) :
    (u.lag.gie = s.lag.gie ∨ r = .intcon2) ∧ ∀ m ∈ u.lag.masks, m ∈ s.lag.masks ∨ m.reg = r := by
  have same (hh : u.lag = s.lag) :
      (u.lag.gie = s.lag.gie ∨ r = .intcon2) ∧ ∀ m ∈ u.lag.masks, m ∈ s.lag.masks ∨ m.reg = r := by
    rw [hh]; exact ⟨.inl rfl, fun m hm => .inl hm⟩
  have added (old : MaskOld) (ho : old.reg = r) (hh : u.lag = { s.lag with masks := old :: s.lag.masks }) :
      (u.lag.gie = s.lag.gie ∨ r = .intcon2) ∧ ∀ m ∈ u.lag.masks, m ∈ s.lag.masks ∨ m.reg = r := by
    rw [hh]
    refine ⟨.inl rfl, fun m hm => ?_⟩
    rcases List.mem_cons.mp hm with rfl | hm
    · exact .inr ho
    · exact .inl hm
  cases r with
  | intcon1 =>
    have h : s.writeIntcon1 mask v earlier = .go u := h
    refine same ((raiseAll_lag h).trans ?_)
    unfold State.intcon1Events
    simp only
    split <;> (try split) <;> (try split) <;> rfl
  | intcon2 =>
    refine ⟨.inr rfl, ?_⟩
    unfold State.writeReg at h
    simp only at h
    split at h
    · cases h
    · unfold State.writeIntcon2 at h
      simp only at h
      split at h
      · rw [raiseAll_lag h]; exact fun m hm => .inl hm
      · cases h; exact fun m hm => .inl hm
  | intcon4 =>
    have h : s.writeIntcon4 mask v earlier = .go u := h
    unfold State.writeIntcon4 at h
    simp only at h
    split at h
    · exact same (by rw [raiseAll_lag h])
    · cases h; exact same rfl
  | sr =>
    unfold State.writeReg at h
    simp only at h
    injection h with h
    split at h
    · exact same (by rw [← h])
    · exact added _ rfl (by rw [← h]; rfl)
  | iec x =>
    unfold State.writeReg at h
    injection h with h
    exact added (.iec x s.iec[x]) rfl (by rw [← h]; rfl)
  | ipc x =>
    unfold State.writeReg at h
    injection h with h
    exact added (.ipc x s.ipc[x]) rfl (by rw [← h]; rfl)
  | disicnt =>
    unfold State.writeReg at h
    injection h with h
    refine same ?_
    rw [← h]
    unfold State.writeDisicnt
    simp only
    split <;> rfl
  | _ =>
    unfold State.writeReg at h
    injection h with h
    exact same (by subst h; rfl)

/-- An event of another agent that does not reset the device keeps the old GIE, and adds no old mask value. -/
theorem Event.apply_lag {e : Event} {s u : State} (h : e.apply s = .go u) :
    u.lag.gie = s.lag.gie ∧ ∀ m ∈ u.lag.masks, ∃ old ∈ s.lag.masks, old.reg = m.reg := by
  have same (hh : u.lag = s.lag) : u.lag.gie = s.lag.gie ∧ ∀ m ∈ u.lag.masks, ∃ old ∈ s.lag.masks, old.reg = m.reg := by
    rw [hh]; exact ⟨rfl, fun m hm => ⟨m, hm, rfl⟩⟩
  have flag (n : Irq) : (s.setIrqFlag n).lag = s.lag := by unfold State.setIrqFlag; split <;> rfl
  have dma (ea : Word) (wide : Bool) (v : Word) (h : s.dmaStore ea wide v = .go u) :
      u.lag.gie = s.lag.gie ∧ ∀ m ∈ u.lag.masks, ∃ old ∈ s.lag.masks, old.reg = m.reg := by
    unfold State.dmaStore at h
    split at h
    · cases h; exact same rfl
    · split at h
      · split at h
        · obtain ⟨x, -, hk⟩ := (Flow.bind_eq_go _ _ _).mp h
          cases hk
          refine ⟨rfl, fun m hm => ?_⟩
          rw [State.dropCleared_masks] at hm
          obtain ⟨old, ho, rfl⟩ := List.mem_map.mp hm
          exact ⟨old, ho, by cases old <;> rfl⟩
        · cases h; exact same (by rw [State.store_frame])
      · exact same (raiseCause_lag h)
  cases e with
  | irq n => injection h with h; exact same (by rw [← h]; exact flag n)
  | extEdge k dir =>
    injection h with h
    refine same ?_
    rw [← h]
    cases dir <;> simp only [State.extEdge] <;> split <;> first | rfl | exact flag _
  | oscFail =>
    have h : raiseCause .oscillator { s with osccon := setBit s.osccon 3 true } = .go u := h
    exact same (by rw [raiseCause_lag h])
  | dmaByte ea v => exact dma _ _ _ h
  | dmaWord half v => exact dma _ _ _ h
  | doLoopEnd =>
    unfold Event.apply at h
    simp only at h
    split at h <;> injection h with h <;> refine same ?_ <;> rw [← h]
    unfold State.endLoop
    split
    · rfl
    · split <;> rfl
  | externalReset => cases h
  | dmaCollision | dmaAddrErr | usbAccess off =>
    unfold Event.apply at h
    simp only at h
    split at h <;> first | exact same (raiseCause_lag h) | (injection h with h; exact same (by rw [← h]))

/-! ### The step -/

/-- A Reset stays one when the events still to come are put on the agenda. -/
theorem State.justReset_settle {s : State} (h : s.justReset) : s.settle.justReset := by
  obtain ⟨x, conflict, rfl⟩ := h
  exact ⟨x.settle, conflict, rfl⟩

/-- Without events still to come, nothing settles. -/
theorem State.settle_idle (s : State) (h : s.meanwhile = []) : s.settle = s := by
  unfold State.settle; rw [h]; cases s; simp_all

/-- An instruction that no event meets begins by dropping the old mask values. -/
theorem State.begin_nil (s : State) (h : s.meanwhile = []) : s.begin [] = .go s.clearLag := by
  unfold State.begin
  rw [State.meet_idle _ rfl]
  congr 1
  cases s; simp_all [State.clearLag]

/-- What running the instruction at `pc` can answer with a next state: the events before it ended in a Reset; or they left
the machine in s2, and there the fetch found nothing implemented, an instruction of the table, or one outside it. Events
still to come are put on the agenda. -/
theorem runNext_next (during : List (List Event)) (s t : State) (h : runNext during s = .next t) :
    ∃ x, t = x.settle ∧ (s.begin during = .cut x
      ∨ ∃ s2, s.begin during = .go s2
          ∧ ((s.fetch = .unimplemented ∧ s2.badFetch = .next x)
            ∨ (∃ i u, s.fetch = .instr i ∧ exec i s2 = .next u ∧ x = u.retire i s2.pc)
            ∨ (∃ acts u, s.fetch = .outside acts ∧ execOutside acts s2 = .next u ∧ x = u.retireOutside s2.pc))) := by
  unfold runNext at h
  cases hh : s.begin during with
  | cut u => rw [hh] at h; injection h with h; exact ⟨u, h.symm, .inl rfl⟩
  | fault f => rw [hh] at h; cases h
  | refused r => rw [hh] at h; cases h
  | go s2 =>
    rw [hh] at h
    have h : retired (runFetched s.fetch s2) State.settle = .next t := h
    cases hr : runFetched s.fetch s2 with
    | fault f => rw [hr] at h; cases h
    | refused r => rw [hr] at h; cases h
    | next x =>
      rw [hr] at h
      injection h with h
      refine ⟨x, h.symm, .inr ⟨s2, rfl, ?_⟩⟩
      clear h
      cases hf : s.fetch with
      | unimplemented => rw [hf] at hr; exact .inl ⟨rfl, hr⟩
      | refused r => rw [hf] at hr; cases hr
      | instr i =>
        rw [hf] at hr
        have hr : retired (exec i s2) (·.retire i s2.pc) = .next x := hr
        cases he : exec i s2 with
        | next u => rw [he] at hr; injection hr with hr; exact .inr (.inl ⟨i, u, rfl, he, hr.symm⟩)
        | fault f => rw [he] at hr; cases hr
        | refused r => rw [he] at hr; cases hr
      | outside acts =>
        rw [hf] at hr
        have hr : retired (execOutside acts s2) (·.retireOutside s2.pc) = .next x := hr
        cases he : execOutside acts s2 with
        | next u => rw [he] at hr; injection hr with hr; exact .inr (.inr ⟨acts, u, rfl, he, hr.symm⟩)
        | fault f => rw [he] at hr; cases hr
        | refused r => rw [he] at hr; cases hr

/-- Everything a step can do that leads to a next state. -/
theorem step_next (s t : State) (h : step s = .next t) :
    (∃ e, s.nextAction.1 = .event e ∧ (e.apply s.nextAction.2 = .go t ∨ e.apply s.nextAction.2 = .cut t))
      ∨ (s.nextAction.1 = .asleep ∧ t = s.nextAction.2)
      ∨ (s.nextAction.1 = .wake ∧ t = s.nextAction.2.wake)
      ∨ (∃ src level, s.nextAction.1 = .enter src level ∧ enterException src level s.nextAction.2 = .next t)
      ∨ (∃ during, s.nextAction.1 = .run during ∧ runNext during s.nextAction.2 = .next t) := by
  unfold step at h
  cases ha : s.nextAction.1 with
  | event e => rw [ha] at h; exact .inl ⟨e, rfl, (Flow.outcome_eq_next _ t).mp h⟩
  | asleep => rw [ha] at h; injection h with h; exact .inr (.inl ⟨rfl, h.symm⟩)
  | wake => rw [ha] at h; injection h with h; exact .inr (.inr (.inl ⟨rfl, h.symm⟩))
  | enter src level => rw [ha] at h; exact .inr (.inr (.inr (.inl ⟨src, level, rfl, h⟩)))
  | run during => rw [ha] at h; exact .inr (.inr (.inr (.inr ⟨during, rfl, h⟩)))

end Sys2Proof.Machine
end

