-- ==== Sys2Proof/Tests/Slice0.lean ====
section
/-! SUPPORT. The model's own tests: decoding of words written out from R112, the refusals of WellFormed, the vectors of
spec/95_test_vectors.md (the row stands in each comment), and for every statement with hypotheses a concrete state that
meets them. -/

namespace Sys2Proof.Tests

open Sys2Proof Sys2Proof.Machine

-- One theorem after the other: in one file, dozens of tests that wait for the kernel together want a thread each.
set_option Elab.async false

/-- What a projection gives of the next state. -/
def fld {α : Type} (o : Host.Outcome State Fault Refusal) (f : State → α) : Option α :=
  match o with
  | .next s => some (f s)
  | .fault _ => none
  | .refused _ => none

def faultOf (o : Host.Outcome State Fault Refusal) : Option Fault :=
  match o with
  | .fault f => some f
  | .next _ => none
  | .refused _ => none

def refusalOf (o : Host.Outcome State Fault Refusal) : Option Refusal :=
  match o with
  | .refused r => some r
  | .next _ => none
  | .fault _ => none

theorem exists_next (o : Host.Outcome State Fault Refusal) (h : fld o (fun _ => ()) = some ()) : ∃ t, o = .next t := by
  cases o with
  | next t => exact ⟨t, rfl⟩
  | fault f => cases h
  | refused r => cases h

theorem pair_of_first {α β : Type} (p : α × β) (a : α) (h : p.1 = a) : p = (a, p.2) := by subst h; rfl

/-- The reset state with a program placed. -/
def boot (items : List (Nat × ProgItem)) : State := { State.reset with prog := items }

/-- The state of spec/95_test_vectors.md 2.5 row 1, with the vectors of IRQ 3 and of the address and math error traps. -/
def entryState : State :=
  { State.reset with
    pc := 0x001234#24
    sr := 0x0021#16
    prog := [(0x000006, .word 0x000310#24), (0x00000C, .word 0x000320#24), (0x00001A, .word 0x000300#24)] }

/-- The state of spec/95_test_vectors.md 2.6 row 1. -/
def returnState : State :=
  { State.reset with
    w := State.reset.w.set 15 0x1004#16
    mem := [(0x1000, 0x34#8), (0x1001, 0x12#8), (0x1002, 0x00#8), (0x1003, 0x21#8)] }

/-- Source n requests at priority p (n at most 15). -/
def request (s : State) (n p : Nat) : State :=
  { s with ifs := s.ifs.set 0 (regAt s.ifs 0 ||| 1#16 <<< n)
           iec := s.iec.set 0 (regAt s.iec 0 ||| 1#16 <<< n)
           ipc := s.ipc.setIfInBounds (n / 4) (mergeBits (regAt s.ipc (n / 4)) (7#16 <<< (4 * (n % 4)))
                    (BitVec.ofNat 16 (p * 2 ^ (4 * (n % 4))))) }

/-! ### Decoding: each word is written out from the encodings of R112 -/

theorem test_decode_nop : decode [0x000000#24] = .ok .nop [] := by decide
theorem test_decode_nop_ignored_bits : decode [0x00ABCD#24] = .ok .nop [] := by decide
theorem test_decode_goto : decode [0x040200#24, 0x000000#24] = .ok (.goto 0x000200#24) [] := by decide
/-- bits 15 to 1 of the target in word 1, bits 22 to 16 in bits 6 to 0 of word 2 -/
theorem test_decode_goto_high : decode [0x048002#24, 0x00007F#24, 0x060000#24] = .ok (.goto 0x7F8002#24) [0x060000#24] := by
  decide
theorem test_decode_goto_bad_second : decode [0x040200#24, 0x000080#24] = .reject .gotoSecondWord := by decide
theorem test_decode_return : decode [0x060000#24] = .ok .ret [] := by decide
theorem test_decode_retfie : decode [0x064000#24] = .ok .retfie [] := by decide
theorem test_decode_bra : decode [0x37FFFF#24] = .ok (.bra 0xFFFF#16) [] := by decide
theorem test_decode_disi : decode [0xFC3FFF#24] = .ok (.disi 0x3FFF#14) [] := by decide
/-- bits 15 and 14 of DISI are 0 in R112 -/
theorem test_decode_disi_wide : decode [0xFC4000#24] = .reject .noSuchOpcode := by decide
theorem test_decode_reset : decode [0xFE0000#24] = .ok .reset [] := by decide
theorem test_decode_pwrsav_sleep : decode [0xFE4000#24] = .ok (.pwrsav .sleep) [] := by decide
theorem test_decode_pwrsav_idle : decode [0xFE4001#24] = .ok (.pwrsav .idle) [] := by decide
/-- GOTO with the second word given from bit 24 on, and with its bits left out -/
theorem test_table_word_goto : decodeTableWord 48 0x7F048002 = some (.goto 0x7F8002#24) := by decide
theorem test_table_word_goto_short : decodeTableWord 24 0x040200 = some (.goto 0x000200#24) := by decide
theorem test_encode_goto : encode (.goto 0x7F8002#24) = some [0x048002#24, 0x00007F#24] := by decide
theorem test_encode_bra : encode (.bra 0xFFFF#16) = some [0x37FFFF#24] := by decide

/-! ### WellFormed -/

theorem test_wf_goto_odd : (Instr.goto 0x000201#24).wellFormed = false := by decide
theorem test_wf_goto_bit23 : (Instr.goto 0x800000#24).wellFormed = false := by decide
theorem test_wf_field_too_wide : (Instr.writeField (.ipcField 0 3) 8#16).wellFormed = false := by decide
theorem test_wf_flag_too_wide : (Instr.writeField .gie 2#16).wellFormed = false := by decide
theorem test_wf_pair_past_w15 : (Instr.movD (.direct 0x1000#16) 15).wellFormed = false := by decide
theorem test_wf_good : (Instr.writeField (.ipcField 0 3) 7#16).wellFormed = true ∧ (Instr.goto 0x7FFFFE#24).wellFormed = true
    ∧ (Instr.movD (.direct 0x1000#16) 14).wellFormed = true := by decide
/-- an abstract instruction that is not well formed is not run -/
theorem test_wf_refused : refusalOf (step (boot [(0, .abstr (.writeField .gie 2#16))])) = some .illFormedSlot := by
  decide +kernel

/-! ### One step -/

/-- R155's worked example, at the reset location -/
theorem test_step_nop : fld (step (State.reset.withFetchWord 24 0x000000)) (·.pc) = some 0x000002#24 := by decide +kernel
/-- R152's worked example -/
theorem test_step_goto : fld (step (State.reset.withFetchWord 48 0x040200)) (·.pc) = some 0x000200#24 := by decide +kernel
/-- R130's worked example -/
theorem test_step_disi : fld (step (State.reset.withFetchWord 24 0xFC0002)) (fun t => (t.disicnt, t.disiBit))
    = some (2#14, true) := by decide +kernel
/-- spec/95 2.6 row 5: RETFIE at W15 = 0x1000 raises the stack error -/
theorem test_step_retfie_low : fld (step (State.reset.withFetchWord 24 0x064000)) (·.trapPending .stack) = some true := by
  decide +kernel
/-- R151's worked example, its mode -/
theorem test_step_pwrsav : fld (step (State.reset.withFetchWord 24 0xFE4001)) (fun t => (t.pc, t.power))
    = some (0x000002#24, .idle) := by decide +kernel
/-- R153's worked example: BRA with offset -1 at 0x000204 -/
theorem test_bra_loop : fld (exec (.bra 0xFFFF#16) { State.reset with pc := 0x000204#24 }) (·.pc) = some 0x000204#24 := by
  decide +kernel
/-- R154's worked example -/
theorem test_return : fld (exec .ret { returnState with mem := [(0x1000, 0x00#8), (0x1001, 0x03#8), (0x1002, 0x00#8),
    (0x1003, 0x00#8)] }) (fun t => (t.pc, t.sp)) = some (0x000300#24, 0x1000#16) := by decide +kernel
/-- R140's worked example, spec/95 2.6 row 1 -/
theorem test_retfie : fld (exec .retfie returnState) (fun t => (t.sp, t.srl, t.ipl3, t.sfa, t.pc))
    = some (0x1000#16, 0x21#8, false, false, 0x001234#24) := by decide +kernel
/-- spec/95 2.6 row 3: RETFIE can set IPL3 -/
theorem test_retfie_sets_ipl3 : fld (exec .retfie { State.reset with
    w := State.reset.w.set 15 0x1008#16, mem := [(0x1004, 0x00#8), (0x1005, 0x04#8),
      (0x1006, 0x80#8), (0x1007, 0x80#8)] })
    (fun t => (t.cpuIpl, t.pc)) = some (12, 0x000400#24) := by decide +kernel
/-- R150's worked example -/
theorem test_reset : fld (exec .reset { State.reset with
    pc := 0x000310#24, sr := 0x00C0#16, corcon := 0x0028#16, intcon1 := 0x0002#16 })
    (fun t => (t.pc, t.cpuIpl, t.intcon1, t.sp)) = some (0x000000#24, 0, 0x0000#16, 0x1000#16) := by
  decide +kernel
/-- spec/95 2.10 row 1 -/
theorem test_div_by_zero : fld (exec (.div 5) State.reset) (·.intcon1) = some 0x0050#16 := by decide +kernel
/-- spec/95 2.10 row 2 -/
theorem test_sftac_17 : fld (exec (.sftac .a (.lit 17#16)) State.reset) (·.intcon1) = some 0x0090#16
    ∧ fld (exec (.sftac .a (.lit 0xFFEF#16)) State.reset) (·.intcon1) = some 0x0090#16 := by decide +kernel
/-- spec/95 2.10 row 3 -/
theorem test_sftac_16 : fld (exec (.sftac .a (.lit 16#16)) State.reset) (·.intcon1) = some 0x0000#16
    ∧ fld (exec (.sftac .a (.lit 0xFFF0#16)) State.reset) (·.intcon1) = some 0x0000#16 := by decide +kernel
/-- spec/95 2.10 rows 7 and 8 -/
theorem test_do : fld (exec .doLoop { State.reset with corcon := 0x0420#16 }) (fun t => (t.intcon3, t.doLevel))
      = some (0x0010#16, 4)
    ∧ fld (exec .doLoop { State.reset with corcon := 0x0320#16 }) (fun t => (t.intcon3, t.doLevel)) = some (0x0000#16, 4) := by
  decide +kernel
/-- R156: a REPEAT loop is active, in its first iteration -/
theorem test_repeat : fld (exec .rept State.reset) (fun t => (t.repeatActive, t.rpt.first)) = some (true, true) := by
  decide +kernel
/-- spec/95 2.10 row 9 -/
theorem test_movd_odd : fld (exec (.movD (.direct 0x1801#16) 0) State.reset) (·.trapPending .address) = some true := by
  decide +kernel
/-- R160: no trap, `pc` advanced -/
theorem test_tblrd : fld (exec (.tblrd 3) State.reset) (fun t => (t.pc, t.intcon1)) = some (0x000002#24, 0x0000#16) := by
  decide +kernel
/-- BTSC on a set bit does not skip, BTSS does (the sense of the device of State.reset) -/
theorem test_bit_tests : fld (exec (.btsc (.reg 15) 12) State.reset) (·.pc) = some 0x000002#24
    ∧ fld (exec (.btss (.reg 15) 12) State.reset) (·.pc) = some 0x000004#24 := by decide +kernel
/-- R98, R165: a read gives the value -/
theorem test_read : fld (exec (.read (.ipc 61)) State.reset) (·.readOut) = some 0x0044#16
    ∧ fld (exec (.read .corcon) State.reset) (·.readOut) = some 0x0020#16 := by decide +kernel
/-- spec/95 2.9 rows 2 and 3 -/
theorem test_write : fld (exec (.write (.ipc 0) 0xFFFF#16) State.reset) (·.ipc[0]) = some 0x7777#16
    ∧ fld (exec (.write .corcon 0x0028#16) State.reset) (·.corcon) = some 0x0020#16 := by decide +kernel
/-- spec/95 2.9 rows 5 and 6 -/
theorem test_write_sr : fld (exec (.write .sr 0x00E3#16) { State.reset with intcon1 := 0x8000#16 }) (·.sr) = some 0x0003#16
    ∧ fld (exec (.write .sr 0x00E3#16) State.reset) (·.sr) = some 0x00E3#16 := by decide +kernel
/-- spec/95 2.9 rows 1 and 7 -/
theorem test_writefield : fld (exec (.writeField (.ipcField 0 3) 2#16) State.reset) (·.ipc[0]) = some 0x2444#16
    ∧ fld (exec (.writeField .swtrap 1#16) State.reset) (fun t => (t.intcon2, t.intcon4)) = some (0xA000#16, 0x0001#16) := by
  decide +kernel
/-- spec/95 2.9 row 10 -/
theorem test_writefield_stkerr : fld (exec (.writeField .stkerr 1#16) State.reset) (·.intcon1) = some 0x0004#16 := by
  decide +kernel

/-! ### Arbitration: spec/95 2.2 -/

/-- rows 1 and 2 -/
theorem test_arb_level : (request { State.reset with sr := 0x0060#16 } 5 3).arbitrate = none
    ∧ (request { State.reset with sr := 0x0060#16 } 5 4).arbitrate = some (.irq 5, 4) := by decide +kernel
/-- rows 3 and 4 -/
theorem test_arb_order : (request (request State.reset 3 4) 8 4).arbitrate = some (.irq 3, 4)
    ∧ (request (request State.reset 0 1) 11 7).arbitrate = some (.irq 11, 7) := by decide +kernel
/-- rows 7 and 8 and 9 -/
theorem test_arb_masks : (request { State.reset with gieSeen := false } 5 7).arbitrate = none
    ∧ (request { State.reset with intcon2 := 0xC000#16 } 5 6).arbitrate = none
    ∧ (request (request { State.reset with intcon2 := 0xC000#16 } 5 6) 9 7).arbitrate = some (.irq 9, 7) := by decide +kernel
/-- rows 10, 13 and 17 -/
theorem test_arb_traps : (request { State.reset with intcon1 := 0x0004#16 } 5 7).arbitrate = some (.trap .stack, 12)
    ∧ { State.reset with sr := 0x0080#16, corcon := 0x0028#16, intcon1 := 0x0018#16 }.arbitrate = some (.trap .address, 13)
    ∧ { State.reset with sr := 0x00C0#16, corcon := 0x0028#16, intcon1 := 0x0002#16 }.arbitrate = none := by decide +kernel

/-! ### Entry: spec/95 2.5 -/

theorem entryState_inv : entryState.Inv :=
  ⟨by decide +kernel, by decide +kernel, by decide +kernel, ⟨by decide +kernel, by decide +kernel⟩, by decide +kernel,
    by decide +kernel, fun t => by cases t <;> decide +kernel, by decide +kernel, by decide +kernel, by decide +kernel,
    by decide +kernel, rfl⟩

theorem entryState_pushReady : entryState.pushReady := by unfold State.pushReady; decide +kernel

/-- row 1 -/
theorem test_entry_row1 : fld (enterException (.irq 3) 4 entryState)
    (fun t => (t.readWord 0x1000#16, t.readWord 0x1002#16, t.sp, t.inttreg, t.pc))
    = some (some 0x1234#16, some 0x2100#16, 0x1004#16, 0x0403#16, 0x000300#24) := by decide +kernel
/-- row 5 -/
theorem test_entry_row5 : (frameA 0x7FFFFE#24 false, frameB 0x00#8 false 0x7FFFFE#24) = (0xFFFE#16, 0x007F#16) := by decide
/-- spec/95 2.10 row 11 -/
theorem test_entry_past_splim : fld (enterException (.irq 3) 4 { entryState with
    splim := 0x1006#16, splimArmed := true, w := entryState.w.set 15 0x1006#16 })
    (fun t => (t.intcon1, t.sp)) = some (0x0004#16, 0x100A#16) := by decide +kernel
/-- spec/95 2.11 rows 1 and 2 -/
theorem test_conflict : fld (exec (.movD (.direct 0x1801#16) 0) { State.reset with sr := 0x00C0#16, corcon := 0x0028#16 })
      (fun t => (t.intcon1, t.cpuIpl)) = some (0x0000#16, 0)
    ∧ fld (exec (.movD (.direct 0x1801#16) 0) { State.reset with sr := 0x0080#16, corcon := 0x0028#16 })
      (fun t => (t.intcon1, t.cpuIpl)) = some (0x0008#16, 12) := by decide +kernel
/-- spec/95 2.10 rows 5 and 6 -/
theorem test_accumulator_events :
    fld (execOutside [.accOverflow .a] { State.reset with intcon1 := 0x0400#16 }) (·.intcon1) = some 0x4410#16
    ∧ fld (execOutside [.accCatastrophic .b] { State.reset with intcon1 := 0x0100#16 }) (·.intcon1) = some 0x0910#16 := by
  decide +kernel
/-- spec/95 2.10 rows 13 and 14 -/
theorem test_edges : fld (Event.apply (.extEdge 0 .rising) State.reset).outcome (·.irqFlag 0) = some true
    ∧ fld (Event.apply (.extEdge 0 .falling) State.reset).outcome (·.irqFlag 0) = some false := by decide +kernel
/-- spec/95 2.11 row 3: OscFail before the instruction's address error in the same step -/
theorem test_conflict_in_one_step : fld (step { boot [(0, .abstr (.movD (.direct 0x1801#16) 0))] with
    agenda := [.cpu [[.oscFail]]] }) (fun t => (t.intcon1, t.osccon, t.pc)) = some (0x0000#16, 0x0000#16, 0x000000#24) := by
  decide +kernel
/-- R98, D14: a DMA word in one event, low byte at the even address -/
theorem test_dma_word : fld (Event.apply (.dmaWord 0x0C00#15 0x1234#16) State.reset).outcome (·.mem)
    = some [(0x1800, 0x34#8), (0x1801, 0x12#8)] := by decide +kernel
/-- R95: an instruction whose read raises the address error performs none of its writes; without it, it does -/
theorem test_write_inhibited : fld (execOutside [.read (.direct 0x2000#16) false, .write (.direct 0x1800#16) false 0x00AB#16]
      State.reset) (fun t => (t.mem, t.intcon1)) = some ([], 0x0008#16)
    ∧ fld (execOutside [.write (.direct 0x1800#16) false 0x00AB#16] State.reset) (·.mem) = some [(0x1800, 0xAB#8)] := by
  decide +kernel
/-- R75, D16 -/
theorem test_read_of_unwritten : faultOf (execOutside [.read (.direct 0x1800#16) true] State.reset) = some .readOfUnwrittenMemory
    ∧ faultOf (exec (.movD (.direct 0x1800#16) 0) State.reset) = some .readOfUnwrittenMemory := by decide +kernel
/-- R81, R98: a data write at a register's address is a write of the register -/
theorem test_register_in_data_space : fld (execOutside [.write (.direct 0x0800#16) true 0x0008#16] State.reset) (·.irqFlag 3)
    = some true := by decide +kernel
/-- R97: push by push; the word the first writes at INTCON1 does not erase the stack error of the second -/
theorem test_push_by_push : fld (State.pushFrame { State.reset with w := State.reset.w.set 15 0x08C0#16 } 0x0000#16
    0x0000#16).outcome (fun t => (t.intcon1, t.sp)) = some (0x0004#16, 0x08C4#16) := by decide +kernel
/-- R101, D14: a DMA write between the two writes of one instruction; the flag's event finds no access to come before and comes
next -/
theorem test_event_between_writes : fld (step { boot [(0, .outside [.write (.direct 0x1800#16) false 0x0001#16,
      .write (.direct 0x1801#16) false 0x0002#16])] with
        agenda := [.cpu [[], [.dmaByte 0x1800#16 0x0A#8, .dmaByte 0x1801#16 0x0B#8], [.irq 3]]] })
      (fun t => (t.mem, t.agenda)) = some ([(0x1800, 0x0A#8), (0x1801, 0x02#8)], [.event (.irq 3)]) := by decide +kernel
/-- R300: an external Reset between two data writes of one instruction -/
theorem test_reset_between_writes : fld (step { boot [(0, .outside [.write (.direct 0x1800#16) false 0x0001#16,
      .write (.direct 0x1801#16) false 0x0002#16])] with agenda := [.cpu [[], [.externalReset]]] })
      (fun t => (t.mem, t.pc)) = some ([(0x1800, 0x01#8)], 0x000000#24) := by decide +kernel
/-- R279: the draw decides whether the second hard trap event of one instruction is a conflict, whichever comes second -/
theorem test_order_of_hard_events :
    { State.reset with intcon1 := 0x0008#16 }.hardConflict .genericHard { traps := [.address], clash := true } = true
    ∧ { State.reset with intcon1 := 0x0008#16 }.hardConflict .genericHard { traps := [.address], clash := false } = false
    ∧ { State.reset with intcon4 := 0x0001#16 }.hardConflict .address { traps := [.genericHard], clash := false } = false
    ∧ { State.reset with intcon4 := 0x0001#16 }.hardConflict .address = true := by decide +kernel
/-- R231, R263: OSCFAIL left at 1 in its own service routine while IPL<2:0> goes from 6 to 5: the new level enters the trap,
the old one need not; an event after the write is entered whichever is seen -/
theorem test_hard_trap_and_old_level :
    fld (exec (.writeField .srIPL 5#16) { State.reset with sr := 0x00C0#16, corcon := 0x0028#16, intcon1 := 0x0002#16 })
        (fun t => (t.boundaryWinner t, t.boundaryWinner (t.withOldMask (.ipl 0x00C0#16 []))))
      = some (some (.trap .oscillator, 14), none)
    ∧ fld ((Event.apply .oscFail { State.reset with
          sr := 0x00A0#16, corcon := 0x0028#16, lag := { gie := none, masks := [.ipl 0x00C0#16 []] } }).outcome)
        (fun t => t.boundaryWinner (t.withOldMask (.ipl 0x00C0#16 []))) = some (some (.trap .oscillator, 14)) := by
  decide +kernel

/-- R224: GIE written to 0 and back to 1 by one instruction; the old GIE is the one before it -/
theorem test_gie_written_twice :
    fld (execOutside [.write (.direct 0x08C2#16) true 0x0000#16, .write (.direct 0x08C2#16) true 0x8000#16] State.reset)
      (fun t => (t.gie, t.lag.gie)) = some (true, some true) := by decide +kernel

/-- R94: an EA below W15 wraps over nothing; spec/95 2.10 rows 10 and 12 -/
theorem test_stack_operands : returnState.operandReadCauses (.indirect 15 (-2)) 0 true = []
    ∧ State.reset.operandReadCauses (.indirect 15 (-2)) 0 false = [.stack, .address]
    ∧ { State.reset with w := State.reset.w.set 15 0xFFFE#16 }.operandWraps (.indirect 15 2) 0 = true := by decide +kernel
/-- R2, R202: no two trap sources share a vector -/
theorem test_trap_vectors : Config.specDevice.wf = true
    ∧ { Config.specDevice with trapVectors := { TrapVectors.family with math := 3 } }.wf = false := by decide +kernel
/-- every listed field lies in its register at the bits of its mask, and software may write it as its list says -/
theorem test_fields :
    (storedFields.all fun x =>
      x.1.reg == x.2.1 && x.1.low == x.2.2.1 && x.1.mask == BitVec.ofNat 16 ((2 ^ x.2.2.2 - 1) <<< x.2.2.1))
    ∧ (clearableFields.all fun x => x.1.reg == x.2.1 && x.1.low == x.2.2 && x.1.mask == 1#16 <<< x.2.2)
    ∧ (readOnlyFields.all fun x => x.1.reg == x.2.1 && x.1.low == x.2.2.1) := by decide +kernel
/-- spec/95 2.8: vector 253 belongs to IRQ 245 -/
theorem test_vector_addresses : (vecAddr (State.reset.vectorNumber (.irq 245)), vecAddr (State.reset.vectorNumber (.irq 3)),
    vecAddr 7) = (0x0001FE, 0x00001A, 0x000012) := by decide +kernel

/-! ### Witnesses: for every statement with hypotheses, a state and operands that meet them, at a boundary value for each
clause -/

theorem witness_HardTrapConflictResets :
    (trapIsSoft .address = false ∧ { State.reset with intcon1 := 0x0008#16 }.trapPending .address = true)
    ∧ ({ State.reset with intcon1 := 0x0002#16 }.trapPending .oscillator = true
        ∧ State.reset.trapLevel .address < State.reset.trapLevel .oscillator)
    ∧ ({ State.reset with sr := 0x00C0#16, corcon := 0x0028#16 }.cpuIpl = 14 ∧ State.reset.trapLevel .address < 14)
    ∧ ({ State.reset with sr := 0x00A0#16, corcon := 0x0028#16 }.cpuIpl = State.reset.trapLevel .address
        ∧ State.reset.cfg.sameLevel = .pend)
    ∧ ({ State.reset with cfg := { Config.specDevice with sameLevel := .reset } }.cfg.sameLevel = .reset)
    ∧ (State.reset.trapPending .address = false ∧ (∀ t, State.reset.trapPending t = false)) :=
  ⟨by decide +kernel, by decide +kernel, by decide +kernel, by decide +kernel, by decide +kernel, by decide +kernel,
    fun t => by cases t <;> decide +kernel⟩

theorem witness_DecodeInvertsEncode : (Instr.goto 0x7FFFFE#24).wellFormed = true
    ∧ encode (.goto 0x7FFFFE#24) = some [0x04FFFE#24, 0x00007F#24] := by decide

/-- a word at the reset location, an abstract instruction at the last implemented one, an instruction outside the table
during which a flag is set, and one cut short -/
theorem witness_StepRunsInstructionAtPc :
    ((State.reset.withFetchWord 24 0x060000).nextAction =
        (.run [], (State.reset.withFetchWord 24 0x060000).nextAction.2)
      ∧ (State.reset.withFetchWord 24 0x060000).nextAction.2.progImplemented 0 = true
      ∧ decode ((State.reset.withFetchWord 24 0x060000).nextAction.2.wordsAt 0) = .ok .ret [0x000000#24])
    ∧ ({ boot [(0x3FE, .abstr .doLoop)] with pc := 0x0003FE#24 }.nextAction.1 = .run []
      ∧ { boot [(0x3FE, .abstr .doLoop)] with pc := 0x0003FE#24 }.progImplemented 0x3FE = true
      ∧ Instr.doLoop.wellFormed = true ∧ Instr.doLoop.encoded = false)
    ∧ ({ boot [(0, .outside [])] with agenda := [.cpu [[.irq 3]]] }.nextAction.1 = .run [[.irq 3]]
      ∧ fld ((boot [(0, .outside [])]).begin [[.irq 3]]).outcome (·.irqFlag 3) = some true)
    ∧ fld ((boot []).begin [[.externalReset]]).outcome (·.pc) = some 0x000000#24 :=
  ⟨⟨pair_of_first _ _ (by decide +kernel), by decide +kernel, by decide +kernel⟩, by decide +kernel, by decide +kernel,
    by decide +kernel⟩

/-- a quiet boundary, one with a source to enter, and an event's turn -/
theorem witness_QuietBoundaryRuns : State.reset.quiet
    ∧ (request State.reset 3 4).nextAction = (.enter (.irq 3) 4, (request State.reset 3 4).nextAction.2)
    ∧ { State.reset with agenda := [.event (.irq 3)] }.agenda = .event (.irq 3) :: [] :=
  ⟨by unfold State.quiet; decide +kernel, pair_of_first _ _ (by decide +kernel), rfl⟩

/-- one source of level 1, a trap, neither -/
theorem witness_SleepingCpuOnlyWakes :
    (State.reset.agenda = [] ∧ { State.reset with power := .sleep }.power ≠ .run)
    ∧ ((request State.reset 3 1).irqFlag 3 = true ∧ (request State.reset 3 1).irqEnable 3 = true
        ∧ (request State.reset 3 1).irqPriority 3 = 1)
    ∧ ({ State.reset with intcon1 := 0x0004#16 }.trapPending .stack = true
        ∧ State.reset.cpuIpl < State.reset.trapLevel .stack)
    ∧ State.reset.wakes = false := by decide +kernel

theorem boot_nop_inv : (boot [(0, .word 0x000000#24)]).Inv :=
  ⟨by decide +kernel, by decide +kernel, by decide +kernel, ⟨by decide +kernel, by decide +kernel⟩, by decide +kernel,
    by decide +kernel, fun t => by cases t <;> decide +kernel, by decide +kernel, by decide +kernel, by decide +kernel,
    by decide +kernel, rfl⟩

/-- the premises of StepKeepsInvariant and of ProgramMemoryIsFixed -/
theorem witness_StepKeepsInvariant :
    (boot [(0, .word 0x000000#24)]).Inv ∧ ∃ t, step (boot [(0, .word 0x000000#24)]) = .next t :=
  ⟨boot_nop_inv, exists_next _ (by decide +kernel)⟩

/-- RETFIE from a frame with IPL3 set -/
theorem witness_IPL3SetOnlyByTrapEntryOrRetfie :
    { returnState with
      prog := [(0, .word 0x064000#24)], mem := [(0x1000, 0x34#8), (0x1001, 0x12#8), (0x1002, 0x80#8), (0x1003, 0x21#8)]
    }.ipl3 = false
    ∧ fld (step { returnState with
        prog := [(0, .word 0x064000#24)], mem := [(0x1000, 0x34#8), (0x1001, 0x12#8), (0x1002, 0x80#8), (0x1003, 0x21#8)]
      }) (·.ipl3) = some true := by decide +kernel

/-- a software write of 0, and a data write at the register's address -/
theorem witness_FlagClearedOnlyBySoftwareOrReset :
    ({ boot [(0, .abstr (.writeField (.ifsBit 15 5) 0#16))] with ifs := State.reset.ifs.set 15 0x0020#16 }.irqFlag 245 = true
    ∧ fld (step { boot [(0, .abstr (.writeField (.ifsBit 15 5) 0#16))] with ifs := State.reset.ifs.set 15 0x0020#16 })
        (·.irqFlag 245) = some false)
    ∧ fld (step { boot [(0, .outside [.write (.direct 0x081E#16) true 0x0000#16])] with
        ifs := State.reset.ifs.set 15 0x0020#16 }) (·.irqFlag 245) = some false := by decide +kernel

theorem witness_SPLIMStaysArmedUntilReset :
    { boot [(0, .word 0xFE0000#24)] with splimArmed := true }.splimArmed = true
    ∧ fld (step { boot [(0, .word 0xFE0000#24)] with splimArmed := true }) (·.splimArmed) = some false
    ∧ State.reset.splimArmed = false := by decide +kernel

/-- the greatest and the least level, and a boundary that enters one -/
theorem witness_InterruptWinnerPassesEveryMask :
    (request { State.reset with sr := 0x00C0#16 } 5 7).arbitrate = some (.irq 5, 7)
    ∧ (request State.reset 5 1).arbitrate = some (.irq 5, 1)
    ∧ ((request State.reset 5 1).cpuRuns [] ∧ (request State.reset 5 1).sampleGie.maskView.1.arbitrate = some (.irq 5, 1)
      ∧ ∀ h, (request State.reset 5 1).trapPending h = false) :=
  ⟨by decide +kernel, by decide +kernel, ⟨rfl, .inl ⟨rfl, rfl⟩⟩, by decide +kernel, fun h => by cases h <;> decide +kernel⟩

theorem witness_TrapsIgnoreInterruptMasks :
    { State.reset with intcon3 := 0x0040#16 }.arbitrate = some (.trap .genericSoft, 8) := by decide +kernel

theorem witness_LevelZeroSourceIsDisabled : (request State.reset 5 0).irqPriority 5 = 0 := by decide +kernel

theorem witness_GIEDelayIsOneBoundary :
    State.reset.lag.gie = none
    ∧ { State.reset with lag := { gie := some true, masks := [] } }.lag.gie = some true
    ∧ fld (step (boot [(0, .abstr (.writeField .gie 0#16))])) (·.lag.gie) = some (some true)
    ∧ State.reset.roomAfter 1 := by unfold State.roomAfter State.pcAligned; decide +kernel

theorem reset_cpuRuns : State.reset.cpuRuns [] := ⟨rfl, .inl ⟨rfl, rfl⟩⟩

/-- a boundary with an old IPL<2:0> that would hide the trap but held another one, and one with an event during the instruction -/
theorem witness_HardTrapStopsExecution :
    { State.reset with intcon4 := 0x0001#16, sr := 0x00C0#16, corcon := 0x0028#16 }.trapPending .genericHard = true
    ∧ { State.reset with intcon4 := 0x0001#16, sr := 0x00C0#16, corcon := 0x0028#16 }.cpuIpl
        < State.reset.trapLevel .genericHard
    ∧ trapIsSoft .genericHard = false ∧ State.reset.cpuRuns []
    ∧ { State.reset with lag := { gie := none, masks := [.ipl 0x00E0#16 [.oscillator]] } }.cpuRuns []
    ∧ { State.reset with agenda := [.cpu [[.irq 3], [.oscFail]]] }.cpuRuns [[.irq 3], [.oscFail]] :=
  ⟨by decide +kernel, by decide +kernel, rfl, reset_cpuRuns, ⟨rfl, .inl ⟨rfl, rfl⟩⟩, ⟨rfl, .inr ⟨[], rfl⟩⟩⟩

/-- no instruction run yet, one, and two -/
theorem witness_SoftTrapSkidIsBounded : trapIsSoft .math = true
    ∧ { State.reset with intcon1 := 0x0050#16 }.sampleGie.maskView.1.arbitrate = some (.trap .math, 11)
    ∧ { State.reset with
        intcon1 := 0x0050#16, skid := { stack := 0, math := 1, dmac := 0, genericSoft := 0 } }.skidOf .math < 2
    ∧ { State.reset with
        intcon1 := 0x0050#16, skid := { stack := 0, math := 2, dmac := 0, genericSoft := 0 } }.skidOf .math = 2
    ∧ { State.reset with intcon1 := 0x0050#16 }.cpuRuns [] :=
  ⟨rfl, by decide +kernel, by decide +kernel, by decide +kernel, ⟨rfl, .inl ⟨rfl, rfl⟩⟩⟩

theorem entryState_holds_irq3 : entryState.vectorHolds (0x000014 + 2 * 3) 0x000300#24 := by
  unfold State.vectorHolds; decide +kernel

theorem entryState_holds_math : entryState.vectorHolds (0x000004 + 2 * entryState.trapVector .math) 0x000320#24 := by
  unfold State.vectorHolds; decide +kernel

theorem witness_InterruptEntry : entryState.Inv ∧ entryState.pushReady ∧ entryState.vectorHolds (0x000014 + 2 * 3) 0x000300#24
    ∧ 1 ≤ 1 ∧ 7 ≤ 7 := ⟨entryState_inv, entryState_pushReady, entryState_holds_irq3, Nat.le_refl _, Nat.le_refl _⟩

theorem witness_TrapEntry : entryState.Inv ∧ entryState.pushReady
    ∧ entryState.vectorHolds (0x000004 + 2 * entryState.trapVector .math) 0x000320#24 :=
  ⟨entryState_inv, entryState_pushReady, entryState_holds_math⟩

theorem witness_EntryClearsNoFlag : (∃ t, enterException (.irq 3) 4 entryState = .next t)
    ∧ entryState.registerAt 0x1000 = none ∧ entryState.registerAt 0x1002 = none :=
  ⟨exists_next _ (by decide +kernel), by decide +kernel, by decide +kernel⟩

/-- W15 at SPLIM, and below 0x1002 and at the least value of the second clause -/
theorem witness_StackErrorsPerformTheAccess :
    ({ entryState with splim := 0x1001#16, splimArmed := true }.sp.getLsbD 0 = false
      ∧ { entryState with splim := 0x1001#16, splimArmed := true }.splim.toNat < entryState.sp.toNat + 2
      ∧ entryState.dataImplemented entryState.sp.toNat = true ∧ entryState.dataImplemented (entryState.sp.toNat + 2) = true
      ∧ entryState.registerAt entryState.sp.toNat = none ∧ entryState.registerAt (entryState.sp.toNat + 2) = none)
    ∧ { entryState with splim := 0x1001#16, splimArmed := true }.Inv
    ∧ { entryState with splim := 0x1001#16, splimArmed := true }.vectorHolds (0x000014 + 2 * 3) 0x000300#24
    ∧ (State.reset.pop.value ≠ none ∧ State.reset.pop.st.pop.value ≠ none ∧ State.reset.sp.toNat < 0x1002
      ∧ State.reset.meanwhile = [])
    ∧ ({ State.reset with w := State.reset.w.set 15 0x0004#16 }.pop.value ≠ none
      ∧ { State.reset with w := State.reset.w.set 15 0x0004#16 }.pop.st.pop.value ≠ none) :=
  ⟨by decide +kernel, ⟨entryState_inv.1, entryState_inv.2, entryState_inv.3, entryState_inv.4, entryState_inv.5,
    entryState_inv.6, entryState_inv.7, entryState_inv.8, entryState_inv.9, entryState_inv.10,
    entryState_inv.11, rfl⟩, entryState_holds_irq3,
    ⟨nofun, nofun, by decide +kernel, rfl⟩, ⟨nofun, nofun⟩⟩

theorem returnState_popReady : returnState.popReady := by unfold State.popReady; decide +kernel

/-- a frame, at the least W15 that pops without a trap event; and one never written -/
theorem witness_RetfieRestoresFrame : returnState.popReady
    ∧ returnState.readWord (returnState.sp - 2#16) = some 0x2100#16
    ∧ returnState.readWord (returnState.sp - 4#16) = some 0x1234#16
    ∧ { returnState with mem := [] }.popReady
    ∧ { returnState with mem := [] }.readWord (returnState.sp - 2#16) = none :=
  ⟨returnState_popReady, by decide +kernel, by decide +kernel, returnState_popReady, by decide +kernel⟩

theorem witness_RetfieUndoesEntry : ∃ t, entryState.Inv ∧ entryState.pushReady
    ∧ enterException (.irq 3) 4 entryState = .next t ∧ t.sp = t.sp := by
  obtain ⟨⟨t, ht⟩, -⟩ := witness_EntryClearsNoFlag
  exact ⟨t, entryState_inv, entryState_pushReady, ht, rfl⟩

/-- a frame; one never written; and events between the two pops, one that sets a flag and one that resets the device -/
theorem witness_ReturnLoadsPcOnly : returnState.popReady ∧ returnState.meanwhile = []
    ∧ returnState.readWord (returnState.sp - 2#16) = some 0x2100#16
    ∧ returnState.readWord (returnState.sp - 4#16) = some 0x1234#16
    ∧ { returnState with mem := [] }.readWord (returnState.sp - 2#16) = none
    ∧ (∃ u, happen [.irq 3] (returnState.setReg 15 0x1002#16) = .go u ∧ u.pop.causes = []
        ∧ u.readWord (u.sp - 2#16) = some 0x1234#16 ∧ u.registerAt (u.sp - 2#16).toNat = none)
    ∧ ∃ u, happen [.externalReset] (returnState.setReg 15 0x1002#16) = .cut u :=
  ⟨returnState_popReady, rfl, by decide +kernel, by decide +kernel, by decide +kernel,
    ⟨_, rfl, by decide +kernel, by decide +kernel, by decide +kernel⟩, ⟨_, rfl⟩⟩

/-- the last address with room after it, and the last address -/
theorem witness_NopAdvancesPc : { State.reset with pc := 0x7FFFFC#24 }.roomAfter 1
    ∧ { State.reset with pc := 0x7FFFFE#24 }.pcAligned ∧ ¬ { State.reset with pc := 0x7FFFFE#24 }.roomAfter 1 := by
  unfold State.roomAfter State.pcAligned; decide +kernel

/-- BRA back to itself -/
theorem witness_JumpsReachImplementedTargets : (Instr.goto 0x0003FE#24).wellFormed = true
    ∧ State.reset.progImplemented (0x0003FE#24).toNat = true
    ∧ { State.reset with pc := 0x000204#24 }.pcAligned
    ∧ ((0x000204#24).toNat : Int) = (0x000204#24 : PAddr).toNat + 2 + 2 * (0xFFFF#16).toInt := by
  unfold State.pcAligned; decide +kernel

theorem witness_JumpToUnimplementedRaisesAddressError : State.reset.hardConflict .address = false
    ∧ State.reset.progImplemented (0x000400#24).toNat = false ∧ (0x000400#24).getLsbD 0 = false ∧ State.reset.roomAfter 2
    ∧ ((0x000400#24).toNat : Int) = State.reset.pc.toNat + 2 + 2 * (0x01FF#16).toInt := by
  unfold State.roomAfter State.pcAligned; decide +kernel

/-- at level 0, and at level 13 with the flag set -/
theorem witness_FetchFromUnimplementedRaisesAddressError :
    ({ State.reset with pc := 0x000400#24 }.nextAction.1 = .run []
      ∧ State.reset.begin [] = .go State.reset
      ∧ { State.reset with pc := 0x000400#24 }.nextAction.2.progImplemented 0x000400 = false
      ∧ { State.reset with pc := 0x000400#24 }.nextAction.2.trapPending .address = false)
    ∧ ({ State.reset with pc := 0x000400#24, intcon1 := 0x0008#16, sr := 0x00A0#16, corcon := 0x0028#16 }.nextAction.1 = .run []
      ∧ { State.reset with
          pc := 0x000400#24, intcon1 := 0x0008#16, sr := 0x00A0#16, corcon := 0x0028#16 }.nextAction.2.cpuIpl = 13) := by
  decide +kernel

/-- the premise `roomAfter 1` of the register, DISI, REPEAT, divide, DO, PWRSAV and TBLRDx statements -/
theorem witness_roomAfter : State.reset.roomAfter 1 ∧ { State.reset with pc := 0x7FFFFC#24 }.roomAfter 1
    ∧ State.reset.roomAfter 3 ∧ { State.reset with pc := 0x7FFFF8#24 }.roomAfter 3 := by
  unfold State.roomAfter State.pcAligned; decide +kernel

/-- an open and a closed window -/
theorem witness_CountdownClosesWindow : State.reset.disiBit = false
    ∧ { State.reset with intcon2 := 0xC000#16, disicnt := 1#14 }.disiBit = true := by decide +kernel

/-- DIV in a first iteration by 0, and in a later one -/
theorem witness_DivideByZeroRaisesMathError : (State.reset.repeatActive = false ∧ State.reset.reg 5 = 0#16)
    ∧ { State.reset with sr := 0x0010#16 }.repeatActive = true := by decide +kernel

theorem witness_InvalidShiftRaisesMathError : State.reset.cfg.hasDsp = true
    ∧ 16 < State.reset.shiftAmount (.lit 17#16) ∧ State.reset.shiftAmount (.lit 0xFFEF#16) < -16
    ∧ State.reset.shiftAmount (.reg 15) = 0x1000 := by decide +kernel

theorem witness_LegalShiftWritesAccumulator : State.reset.shiftAmount (.lit 16#16) = 16
    ∧ State.reset.shiftAmount (.lit 0xFFF0#16) = -16
    ∧ { State.reset with cfg := { Config.specDevice with hasDsp := false } }.cfg.hasDsp = false
    ∧ { State.reset with accA := 0x1#40 }.shiftLeavesFormat .a (-4) = false
    ∧ shiftsLeft Config.specDevice 4 = false ∧ mayCarryOut 0x1#40 4 31 = false := by decide +kernel

theorem witness_DOStartsLoop : { State.reset with corcon := 0x0320#16 }.doLevel < 4 ∧ State.reset.doLevel < 4 := by
  decide +kernel

theorem witness_DOOverflowKeepsLoopState : { State.reset with corcon := 0x0420#16 }.doLevel = 4 := by decide +kernel

/-- two written words, two fetches that raise the address error, a word nothing has written -/
theorem witness_MovDAndTblrdLoadRegisters : returnState.operandReadCauses (.direct 0x1000#16) 0 true = []
    ∧ returnState.operandReadCauses (.direct 0x1000#16) 2 true = []
    ∧ returnState.operandUnwritten (.direct 0x1000#16) 0 true = false
    ∧ returnState.operandUnwritten (.direct 0x1000#16) 2 true = false
    ∧ State.reset.hardConflict .address = false
    ∧ Cause.address ∈ State.reset.operandReadCauses (.direct 0x1FFE#16) 2 true
    ∧ Cause.address ∈ State.reset.operandReadCauses (.direct 0x1801#16) 0 true
    ∧ State.reset.operandUnwritten (.direct 0x1801#16) 0 true = false
    ∧ State.reset.operandUnwritten (.direct 0x1000#16) 2 true = true
    ∧ returnState.readWord (returnState.operandEa (.direct 0x1000#16) 2) ≠ none ∧ returnState.meanwhile = []
    ∧ fld (happen [.irq 3] returnState).outcome (·.meanwhile) = some [] := by decide +kernel

/-- a register, a written word, an unwritten one, a page, a word below the stack -/
theorem witness_BitTestSkips : State.reset.operandReadCauses (.reg 3) 0 true = []
    ∧ returnState.operandReadCauses (.indirect 15 (-2)) 0 true = []
    ∧ State.reset.operandReadCauses (.indirect 15 (-2)) 0 true = [.stack, .address]
    ∧ returnState.operandReadCauses (.direct 0x1000#16) 0 true = []
    ∧ (returnState.fetchOperand (.direct 0x1000#16)).value = some 0x1234#16
    ∧ State.reset.operandReadCauses (.direct 0x1000#16) 0 true = []
    ∧ (State.reset.fetchOperand (.direct 0x1000#16)).value = none
    ∧ State.reset.operandReadCauses (.paged 0x8000#16) 0 true = [] := by decide +kernel

theorem witness_SRWriteRespectsNSTDIS : State.reset.nstdis = false ∧ { State.reset with intcon1 := 0x8000#16 }.nstdis = true := by
  decide +kernel

theorem witness_SWTRAPWriteRaisesGenericHardTrap : State.reset.hardConflict .genericHard = false := by decide +kernel

theorem witness_WriteFieldKeepsOtherBits : ∃ t, exec (.writeField .oscfail 1#16) State.reset = .next t :=
  exists_next _ (by decide +kernel)

/-- no hard trap flag written from 0 to 1; ADDRERR written to 1 above level 13 -/
theorem witness_INTCON1WriteStoresFlags : State.reset.intcon1.getLsbD 1 = false ∧ State.reset.intcon1.getLsbD 3 = false
    ∧ 13 < { State.reset with sr := 0x00C0#16, corcon := 0x0028#16 }.cpuIpl := by decide +kernel

/-- a step that leaves an old mask value, an event's turn that keeps one, and a device with and one without the lag -/
theorem witness_SourceWritesStore :
    fld (step (boot [(0, .abstr (.write (.ipc 0) 0#16))])) (·.lag.masks) = some [.ipc 0 0x4444#16]
    ∧ fld (step { State.reset with lag := { gie := none, masks := [.iec 0 0#16] }, agenda := [.event (.irq 3)] }) (·.lag.masks)
        = some [.iec 0 0#16]
    ∧ { State.reset with cfg := { Config.specDevice with maskWriteLag := true } }.cfg.maskWriteLag = true
    ∧ { State.reset with cfg := { Config.specDevice with maskWriteLag := false } }.cfg.maskWriteLag = false := by
  decide +kernel

theorem witness_SourceFieldWritesStore : State.reset.cfg.irqImpl.getLsbD 245 = true ∧ State.reset.cfg.irqImpl.getLsbD 0 = true
    ∧ State.reset.cfg.irqImpl.getLsbD 87 = false := by decide +kernel

/-- a write of 1 to SWTRAP and to SGHT with and without a conflict, and of GIE both ways -/
theorem witness_PlainRegisterWrites : (0x2000#16).getLsbD 14 = State.reset.disiBit
    ∧ State.reset.hardConflict .genericHard = false
    ∧ { State.reset with
        cfg := { Config.specDevice with sameLevel := .reset }, sr := 0x00E0#16, corcon := 0x0028#16 }.hardConflict
        .genericHard = true
    ∧ State.reset.trapPending .genericHard = false ∧ (0x8000#16).getLsbD 15 = State.reset.gie := by decide +kernel

/-- a write of INTCON2 that would open a window, and one that would not -/
theorem witness_WritesComplete : (0x4000#16).getLsbD 14 ≠ State.reset.disiBit ∧ (0x8000#16).getLsbD 14 = State.reset.disiBit
    ∧ (1#16).getLsbD 0 ≠ State.reset.disiBit := by decide +kernel

/-- a source that a pin owns, and one that none does -/
theorem witness_ExternalEdgeSetsFlag : State.reset.cfg.irqImpl.getLsbD 3 = true ∧ State.reset.cfg.irqImpl.getLsbD 0 = true ∧ State.reset.cfg.intIrq[(0 : Fin 5)] = 0 := by
  decide +kernel

/-- an odd and an unimplemented operand, a read of a register, one of a byte that nothing has written, one with a stack and an
address error, one that makes a hard trap conflict, and a MAC fetch of a written word -/
theorem witness_OutsideInstructionsRaiseTraps : State.reset.cfg.hasDsp = true ∧ State.reset.saturates31 .a = false
    ∧ State.reset.saturates31 .b = false ∧ State.reset.saturates .a = false ∧ State.reset.saturates .b = false
    ∧ State.reset.hardConflict .address = false ∧ State.reset.dataImplementedIn .y 0x1000 = false
    ∧ State.reset.operandReadCauses (.reg 3) 0 true = [] ∧ State.reset.operandUnwritten (.reg 3) 0 true = false
    ∧ State.reset.operandReadCauses (.direct 0x1000#16) 0 false = []
    ∧ State.reset.operandUnwritten (.direct 0x1000#16) 0 false = true
    ∧ State.reset.operandReadCauses (.indirect 15 (-2)) 0 true = [.stack, .address]
    ∧ ({ State.reset with sr := 0x00C0#16, corcon := 0x0028#16 }.hardConflict .address = true
      ∧ { State.reset with sr := 0x00C0#16, corcon := 0x0028#16 }.trapPending .address = false)
    ∧ returnState.dataImplementedIn .x 0x1000 = true ∧ returnState.readWord 0x1000#16 ≠ none := by decide +kernel

theorem witness_OutsideAgentsRaiseTraps : State.reset.cfg.hasDma = true ∧ State.reset.dataImplemented (0x0FFF#16).toNat = false
    ∧ State.reset.dataImplemented (0x1FFF#16).toNat = true ∧ State.reset.registerAt (0x1FFF#16).toNat = none
    ∧ State.reset.dataImplemented (2 * (0x07FF#15).toNat) = false
    ∧ State.reset.dataImplemented (2 * (0x0FFF#15).toNat) = true ∧ State.reset.registerAt (2 * (0x0FFF#15).toNat) = none
    ∧ State.reset.registerAt (2 * (0x0400#15).toNat) = some (.ifs 0) ∧ State.reset.cfg.hasUsb = true
    ∧ { State.reset with cfg := { Config.specDevice with dataRanges := [], registers := [], hasDma := false } }.dataImplemented
        ((Config.bdtAddress 0#16 0#16 0#16).toNat + 511) = false
    ∧ State.reset.hardConflict .oscillator = false
    ∧ (State.reset.registerAt (0x0801#16).toNat = some (.ifs 0) ∧ State.reset.dataImplemented 0x1FFF = true)
    ∧ ({ State.reset with intcon4 := 0x0001#16 }.hardConflict .oscillator = true
      ∧ { State.reset with intcon4 := 0x0001#16 }.trapPending .oscillator = false)
    ∧ ({ State.reset with corcon := 0x0120#16 }.power = .run ∧ { State.reset with corcon := 0x0120#16 }.doLevel = 1
      ∧ State.reset.doLevel = 0) := by
  refine ⟨by decide +kernel, by decide +kernel, by decide +kernel, by decide +kernel, by decide +kernel, by decide +kernel,
    by decide +kernel, by decide +kernel, by decide +kernel, rfl, by decide +kernel, by decide +kernel, by decide +kernel,
    by decide +kernel⟩

/-- a word and a byte that are written, one with a stack error, one in unimplemented memory that does not trap, a word and a
byte at a register; two writes with an event between them; a wide write at an odd address, one to unimplemented memory, and an entry through an odd Stack Pointer -/
theorem witness_DataWritesFollowAccessChecks :
    (Memory.wf State.reset.mem = true ∧ State.reset.operandWriteCauses (.direct 0x1FFE#16) true = []
      ∧ State.reset.registerAt 0x1FFE = none ∧ State.reset.operandEa (.direct 0x1FFE#16) 0 = 0x1FFE#16
      ∧ State.reset.dataImplemented 0x1FFE = true)
    ∧ ({ State.reset with splim := 0x1002#16, splimArmed := true }.operandWriteCauses (.indirect 15 4) true = [.stack]
      ∧ Cause.address ∉ State.reset.operandWriteCauses (.indirect 15 1) false)
    ∧ (Cause.address ∉ { State.reset with cfg := { Config.specDevice with writeUnimplTraps := false } }.operandWriteCauses
        (.direct 0x2000#16) true ∧ State.reset.dataImplemented 0x2000 = false)
    ∧ (State.reset.registerAt (State.reset.operandEa (.direct 0x0020#16) 0).toNat = some .splim
      ∧ State.reset.operandWriteCauses (.direct 0x0020#16) true = []
      ∧ ∃ t, exec (.write .splim 0x1FF0#16) State.reset = .next t)
    ∧ (State.reset.registerAt (State.reset.operandEa (.direct 0x0801#16) 0).toNat = some (.ifs 0)
      ∧ State.reset.operandWriteCauses (.direct 0x0801#16) false = []
      ∧ ∃ u, State.reset.writeReg (.ifs 0) 0xFF00#16 (0x0001#16 <<< 8) = .go u)
    ∧ ({ State.reset with meanwhile := [[.irq 3]] }.registerAt 0x1800 = none
      ∧ { State.reset with meanwhile := [[.irq 3]] }.operandWriteCauses (.direct 0x1800#16) true = []
      ∧ (∃ t, execOutside [.write (.direct 0x1800#16) true 0x1234#16] { State.reset with meanwhile := [[.irq 3]] } = .next t)
      ∧ (∃ u, happen [.irq 3] State.reset = .go u) ∧ ∃ u, happen [.externalReset] State.reset = .cut u)
    ∧ (Cause.address ∈ [CpuAct.write (.direct 0x1801#16) true 0x1234#16].flatMap (CpuAct.causes State.reset)
      ∧ Cause.address ∈ [CpuAct.write (.direct 0x2000#16) false 0x0012#16].flatMap (CpuAct.causes State.reset)
      ∧ ∃ t, execOutside [.write (.direct 0x1801#16) true 0x1234#16] State.reset = .next t)
    ∧ ({ entryState with w := entryState.w.set 15 0x1801#16 }.sp.getLsbD 0 = true
      ∧ ∃ t, enterException (.irq 3) 4 { entryState with w := entryState.w.set 15 0x1801#16 } = .next t) :=
  ⟨by decide +kernel, by decide +kernel, by decide +kernel,
    ⟨by decide +kernel, by decide +kernel, exists_next _ (by decide +kernel)⟩,
    ⟨by decide +kernel, by decide +kernel, ⟨_, rfl⟩⟩,
    ⟨by decide +kernel, by decide +kernel, exists_next _ (by decide +kernel), ⟨_, rfl⟩, ⟨_, rfl⟩⟩,
    ⟨by decide +kernel, by decide +kernel, exists_next _ (by decide +kernel)⟩,
    ⟨by decide +kernel, exists_next _ (by decide +kernel)⟩⟩

end Sys2Proof.Tests
end

section
/-! The arming of the stack limit check (spec/10_state.md R70): every operation keeps it, or a device Reset cut the operation
short. -/

namespace Sys2Proof.Machine

/-! ### Armed, or cut short by a device Reset -/

/-- An operation keeps the stack limit check armed where the run goes on, and only a device Reset cuts it short. -/
def Flow.StaysArmed : Flow → Prop
  | .go u => u.splimArmed = true
  | .cut u => u.justReset
  | .fault _ | .refused _ => True

/-- The check is armed, or the state is one that a device Reset leaves. -/
def State.ArmedOrReset (t : State) : Prop := t.splimArmed = true ∨ t.justReset

theorem Flow.StaysArmed.bind {f : Flow} {k : State → Flow} (hf : f.StaysArmed)
    (hk : ∀ u, u.splimArmed = true → (k u).StaysArmed) : (f.bind k).StaysArmed := by
  cases f with
  | go u => exact hk u hf
  | cut u => exact hf
  | fault e => trivial
  | refused r => trivial

theorem Flow.StaysArmed.outcome {f : Flow} {t : State} (hf : f.StaysArmed) (h : f.outcome = .next t) : t.ArmedOrReset := by
  rcases (Flow.outcome_eq_next f t).mp h with rfl | rfl
  · exact .inl hf
  · exact .inr hf

theorem State.advance_splimArmed (s : State) (n : Nat) : (s.advance n).splimArmed = s.splimArmed := by
  rw [(s.advance_frame n).1]

theorem Flow.StaysArmed.thenAdvance {f : Flow} {t : State} (hf : f.StaysArmed) (h : f.thenAdvance = .next t) :
    t.ArmedOrReset := by
  rcases (Flow.thenAdvance_eq_next f t).mp h with rfl | ⟨u, rfl, rfl⟩
  · exact .inr hf
  · exact .inl ((u.advance_splimArmed 1).trans hf)

/-! ### Trap events and register writes -/

theorem raiseAll_staysArmed (cs : List Cause) (s : State) (earlier : Earlier := .none) (hs : s.splimArmed = true) :
    (raiseAll cs s earlier).StaysArmed := by
  obtain ⟨u, hu, h | h⟩ := raiseAll_cases cs s earlier <;> rw [h]
  · show u.splimArmed = true
    rw [hu.rest]; exact hs
  · exact u.deviceReset_justReset true

theorem raiseCause_staysArmed (c : Cause) (s : State) (hs : s.splimArmed = true) : (raiseCause c s).StaysArmed := by
  have h : ((raiseCause c s).bind .go).StaysArmed := raiseAll_staysArmed [c] s .none hs
  cases hc : raiseCause c s with
  | go u | cut u => rw [hc] at h; exact h
  | fault e | refused r => trivial

theorem State.writeIntcon1_staysArmed (s : State) (mask v : Word) (earlier : Earlier) (hs : s.splimArmed = true) :
    (s.writeIntcon1 mask v earlier).StaysArmed := by
  have hevents (new : Word) : (s.intcon1Events new).2.splimArmed = s.splimArmed := by
    unfold State.intcon1Events
    simp only
    split
    · split <;> rfl
    · split
      · rfl
      · split <;> rfl
  exact raiseAll_staysArmed _ _ _ ((hevents _).trans hs)

theorem State.writeIntcon2_staysArmed (s : State) (mask v : Word) (earlier : Earlier) (hs : s.splimArmed = true) :
    (s.writeIntcon2 mask v earlier).StaysArmed := by
  unfold State.writeIntcon2
  simp only
  split
  · exact raiseAll_staysArmed _ _ _ hs
  · exact hs

theorem State.writeIntcon4_staysArmed (s : State) (mask v : Word) (earlier : Earlier) (hs : s.splimArmed = true) :
    (s.writeIntcon4 mask v earlier).StaysArmed := by
  unfold State.writeIntcon4
  simp only
  split
  · exact raiseAll_staysArmed _ _ _ hs
  · exact hs

/-- A software write of a register: one of SPLIM arms the check, and no other one touches the arming. -/
theorem State.writeReg_staysArmed (s : State) (r : RegName) (mask v : Word) (earlier : Earlier := .none)
    (hs : s.splimArmed = true) : (s.writeReg r mask v earlier).StaysArmed := by
  cases r with
  | splim => exact rfl
  | intcon1 => exact s.writeIntcon1_staysArmed mask v earlier hs
  | intcon2 =>
    unfold State.writeReg
    simp only
    split
    · trivial
    · exact s.writeIntcon2_staysArmed mask v earlier hs
  | intcon4 => exact s.writeIntcon4_staysArmed mask v earlier hs
  | sr =>
    unfold State.writeReg Flow.StaysArmed
    simp only
    split <;> exact hs
  | disicnt =>
    unfold State.writeReg Flow.StaysArmed State.writeDisicnt
    simp only
    split <;> exact hs
  | _ => exact hs

/-! ### Data writes and the stack -/

theorem State.store_splimArmed (s : State) (ea : Word) (wide : Bool) (v : Word) :
    (s.store ea wide v).splimArmed = s.splimArmed := by
  rw [State.store_frame]

theorem State.dataWrite_staysArmed (s : State) (ea : Word) (wide : Bool) (v : Word) (earlier : Earlier := .none)
    (hs : s.splimArmed = true) : (s.dataWrite ea wide v earlier).StaysArmed := by
  unfold State.dataWrite
  split
  · exact (s.writeReg_staysArmed _ _ _ earlier hs).bind fun u hu => hu
  · exact (s.store_splimArmed ea wide v).trans hs

theorem State.drawEarlier_splimArmed (s : State) (traps : List Trap) :
    (s.drawEarlier traps).2.splimArmed = s.splimArmed := by
  rw [State.drawEarlier_frame]

theorem State.push_staysArmed (s : State) (v : Word) (inhibited : Bool) (earlier : List Trap) (hs : s.splimArmed = true) :
    (s.push v inhibited earlier).StaysArmed := by
  refine (raiseAll_staysArmed _ _ _ ((s.drawEarlier_splimArmed earlier).trans hs)).bind fun u hu =>
    Flow.StaysArmed.bind ?_ fun x hx => hx
  split
  · exact hu
  · exact u.dataWrite_staysArmed _ _ _ _ hu

theorem State.pop_splimArmed (s : State) : s.pop.st.splimArmed = s.splimArmed := by
  rw [s.pop_frame.1]

/-- The two pops of a return keep the check armed when what comes between and after them does. -/
theorem State.popFrame_staysArmed (s : State) (between : State → Flow) (k : Word → Word → State → Flow)
    (hs : s.splimArmed = true) (hb : ∀ u, u.splimArmed = true → (between u).StaysArmed)
    (hk : ∀ b a u, u.splimArmed = true → (k b a u).StaysArmed) : (s.popFrame between k).StaysArmed := by
  refine (raiseAll_staysArmed _ _ _ (s.pop_splimArmed.trans hs)).bind fun u hu => (hb u hu).bind fun x hx =>
    (raiseAll_staysArmed _ _ _ (x.pop_splimArmed.trans hx)).bind fun y hy => ?_
  split
  · exact hk _ _ y hy
  · trivial

/-! ### Events of the other agents -/

theorem State.setIrqFlag_splimArmed (s : State) (n : Irq) : (s.setIrqFlag n).splimArmed = s.splimArmed := by
  unfold State.setIrqFlag; split <;> rfl

theorem State.extEdge_splimArmed (s : State) (k : Fin 5) (dir : Edge) : (s.extEdge k dir).splimArmed = s.splimArmed := by
  cases dir <;> simp only [State.extEdge] <;> split <;> simp only [State.setIrqFlag_splimArmed]

theorem State.endLoop_splimArmed (s : State) : s.endLoop.splimArmed = s.splimArmed := by
  unfold State.endLoop
  split
  · rfl
  · split <;> rfl

theorem State.dmaStore_staysArmed (s : State) (ea : Word) (wide : Bool) (v : Word) (hs : s.splimArmed = true) :
    (s.dmaStore ea wide v).StaysArmed := by
  unfold State.dmaStore
  split
  · exact hs
  · split
    · split
      · exact (s.writeReg_staysArmed _ _ _ .none hs).bind fun u hu => hu
      · exact (s.store_splimArmed ea wide v).trans hs
    · exact raiseCause_staysArmed _ s hs

theorem Event.apply_staysArmed (e : Event) (s : State) (hs : s.splimArmed = true) : (e.apply s).StaysArmed := by
  cases e with
  | irq n => exact (s.setIrqFlag_splimArmed n).trans hs
  | extEdge k dir => exact (s.extEdge_splimArmed k dir).trans hs
  | oscFail => exact raiseCause_staysArmed .oscillator _ hs
  | dmaByte ea v => exact s.dmaStore_staysArmed ea false _ hs
  | dmaWord half v => exact s.dmaStore_staysArmed _ true v hs
  | doLoopEnd =>
    unfold Event.apply
    simp only
    split
    · exact s.endLoop_splimArmed.trans hs
    · exact hs
  | externalReset => exact s.deviceReset_justReset false
  | dmaCollision | dmaAddrErr =>
    unfold Event.apply
    simp only
    split
    · exact raiseCause_staysArmed _ s hs
    · exact hs
  | usbAccess off =>
    unfold Event.apply
    simp only
    split
    · exact hs
    · exact raiseCause_staysArmed _ s hs

/-- A state that a device Reset leaves stays one whatever events are still to come. -/
theorem State.justReset_meanwhile {s : State} (h : s.justReset) (groups : List (List Event)) :
    State.justReset { s with meanwhile := groups } := by
  obtain ⟨x, conflict, rfl⟩ := h
  exact ⟨{ x with meanwhile := groups }, conflict, rfl⟩

theorem happen_staysArmed (es : List Event) (s : State) (hs : s.splimArmed = true) : (happen es s).StaysArmed := by
  induction es generalizing s with
  | nil => exact hs
  | cons e es ih =>
    have he := e.apply_staysArmed s hs
    unfold happen
    cases h : e.apply s with
    | go u => rw [h] at he; exact ih u he
    | cut u => rw [h] at he; exact State.justReset_meanwhile he _
    | fault f => trivial
    | refused r => trivial

theorem State.meet_staysArmed (s : State) (hs : s.splimArmed = true) : s.meet.StaysArmed := by
  unfold State.meet
  split
  · exact hs
  · exact happen_staysArmed _ _ hs

/-! ### Taking an exception -/

theorem State.countdown_splimArmed (s : State) (lo hi : Nat) : (s.countdown lo hi).splimArmed = s.splimArmed := by
  rw [(s.countdown_frame lo hi).1]

theorem State.pushFrame_staysArmed (s : State) (a b : Word) (hs : s.splimArmed = true) : (s.pushFrame a b).StaysArmed :=
  (s.push_staysArmed _ _ _ hs).bind fun u hu => u.push_staysArmed _ _ _ hu

theorem enterException_armedOrReset (src : Source) (level : Nat) (s t : State) (hs : s.splimArmed = true)
    (h : enterException src level s = .next t) : t.ArmedOrReset := by
  have hp := s.pushFrame_staysArmed (frameA s.pc s.sfa) (frameB s.srl s.ipl3 s.pc) hs
  rcases enterException_next src level s t h with hc | ⟨pushed, v, hg, -, rfl⟩
  · rw [hc] at hp; exact .inr hp
  · rw [hg] at hp
    have he : (pushed.enterLevel src level).splimArmed = pushed.splimArmed := by rw [(pushed.enterLevel_frame src level).1]
    exact .inl ((State.countdown_splimArmed _ _ _).trans (he.trans hp))

/-! ### Instructions -/

theorem State.badJump_armedOrReset (s t : State) (target : PAddr) (words : Nat) (hs : s.splimArmed = true)
    (h : s.badJump target words = .next t) : t.ArmedOrReset := by
  refine ((raiseCause_staysArmed .address s hs).bind fun u hu => ?_).outcome h
  show State.splimArmed _ = true
  split
  · exact hu
  · exact (State.advance_splimArmed _ _).trans hu

theorem State.jump_armedOrReset (s t : State) (target : PAddr) (words : Nat) (hs : s.splimArmed = true)
    (h : s.jump target words = .next t) : t.ArmedOrReset := by
  unfold State.jump at h
  split at h
  · cases h; exact .inl hs
  · exact s.badJump_armedOrReset t target words hs h

theorem State.fetchOperand_splimArmed (s : State) (o : Operand) : (s.fetchOperand o).st.splimArmed = s.splimArmed := by
  cases o with
  | reg i | paged ea => rfl
  | indirect i disp | direct ea => unfold State.fetchOperand; simp only; split <;> rfl

theorem State.testAndSkip_armedOrReset (s t : State) (src : Operand) (bit : Fin 16) (skipsOn : Bool)
    (hs : s.splimArmed = true) (h : s.testAndSkip src bit skipsOn = .next t) : t.ArmedOrReset := by
  refine ((raiseAll_staysArmed _ _ _ ((s.fetchOperand_splimArmed src).trans hs)).bind fun u hu => ?_).outcome h
  split
  · trivial
  · show State.splimArmed _ = true
    split <;> exact (State.advance_splimArmed _ _).trans hu

theorem execBra_armedOrReset (offset : Word) (s t : State) (hs : s.splimArmed = true) (h : execBra offset s = .next t) :
    t.ArmedOrReset := by
  refine State.jump_armedOrReset _ t _ _ ?_ h
  unfold State.pcPlus
  split <;> exact hs

theorem execMovD_armedOrReset (src : Operand) (dst : Fin 16) (s t : State) (hs : s.splimArmed = true)
    (h : execMovD src dst s = .next t) : t.ArmedOrReset := by
  refine ((raiseAll_staysArmed _ s _ hs).bind fun u hu => (u.meet_staysArmed hu).bind fun x hx =>
    (raiseAll_staysArmed _ x _ hx).bind fun y hy => ?_).thenAdvance h
  split
  · trivial
  · exact hy

theorem execSftac_armedOrReset (acc : AccName) (amount : ShiftAmount) (s t : State) (hs : s.splimArmed = true)
    (h : execSftac acc amount s = .next t) : t.ArmedOrReset := by
  unfold execSftac at h
  simp only at h
  split at h
  · cases h
  · split at h
    · exact (raiseCause_staysArmed _ s hs).thenAdvance h
    · refine ((raiseAll_staysArmed _ _ _ ?_).bind fun u hu => ?_).thenAdvance h
      · exact hs
      · show State.splimArmed _ = true
        simpa using hu

theorem execDo_armedOrReset (s t : State) (hs : s.splimArmed = true) (h : execDo s = .next t) : t.ArmedOrReset := by
  unfold execDo at h
  split at h
  · refine ((raiseCause_staysArmed (.genericSoft .doovr) s hs).bind fun u hu => ?_).outcome h
    exact hu
  · exact Flow.StaysArmed.thenAdvance (f := .go s.startLoop) hs h

/-- Most instructions only move on; WRITE may arm the check, RESET and a hard trap conflict reset the device. -/
theorem exec_armedOrReset (i : Instr) (s t : State) (hs : s.splimArmed = true) (h : exec i s = .next t) :
    t.ArmedOrReset := by
  have moves {x : State} (e : (.next (x.advance 1) : Host.Outcome State Fault Refusal) = .next t)
      (hx : x.splimArmed = true) : t.ArmedOrReset := Flow.StaysArmed.thenAdvance (f := .go x) hx e
  cases i with
  | nop => exact moves h hs
  | goto target => exact s.jump_armedOrReset t target 2 hs h
  | ret =>
    refine (s.popFrame_staysArmed _ _ hs State.meet_staysArmed fun b a u hu => ?_).outcome h
    exact hu
  | retfie =>
    refine (s.popFrame_staysArmed .go _ hs (fun u hu => hu) fun b a u hu => ?_).outcome h
    exact hu
  | bra offset => exact execBra_armedOrReset offset s t hs h
  | disi k => exact moves h hs
  | reset => cases h; exact .inr (s.deviceReset_justReset false)
  | pwrsav m => exact moves h hs
  | rept => exact moves h hs
  | div divisor =>
    refine ((raiseAll_staysArmed _ s _ hs).bind fun u hu => ?_).thenAdvance h
    exact hu
  | sftac acc amount => exact execSftac_armedOrReset acc amount s t hs h
  | doLoop => exact execDo_armedOrReset s t hs h
  | movD src dst => exact execMovD_armedOrReset src dst s t hs h
  | tblrd dst => exact moves h hs
  | btsc src bit => exact s.testAndSkip_armedOrReset t src bit s.cfg.btscSkipsOn hs h
  | btss src bit => exact s.testAndSkip_armedOrReset t src bit s.cfg.btssSkipsOn hs h
  | read r => exact moves h hs
  | write r v => exact (s.writeReg_staysArmed r _ v .none hs).thenAdvance h
  | writeField f v => exact (s.writeReg_staysArmed f.reg _ _ .none hs).thenAdvance h

/-! ### Instructions outside the table -/

theorem State.accChanged_splimArmed (s : State) (acc : AccName) : (s.accChanged acc).splimArmed = s.splimArmed := by
  simp [State.accChanged]

theorem CpuAct.effect_staysArmed (start : State) (inhibited : Bool) (earlier : Earlier) (act : CpuAct) (s : State)
    (hs : s.splimArmed = true) : (act.effect start inhibited earlier s).StaysArmed := by
  cases act with
  | read src wide | macFetch space ea => exact hs
  | write dst wide v =>
    cases dst with
    | reg i => exact hs
    | paged ea => unfold CpuAct.effect; simp only; split <;> exact hs
    | indirect i disp | direct ea =>
      unfold CpuAct.effect
      simp only
      split
      · exact hs
      · exact s.dataWrite_staysArmed _ _ _ _ hs
  | accOverflow acc | accCatastrophic acc =>
    show State.splimArmed _ = true
    split
    · exact (s.accChanged_splimArmed acc).trans hs
    · exact hs

theorem CpuAct.run_staysArmed (start : State) (inhibited : Bool) (earlier : List Trap) (act : CpuAct) (s : State)
    (hs : s.splimArmed = true) : (act.run start inhibited earlier s).StaysArmed :=
  (raiseAll_staysArmed _ _ _ ((s.drawEarlier_splimArmed earlier).trans hs)).bind fun u hu =>
    act.effect_staysArmed start inhibited _ u hu

theorem runActs_staysArmed (start : State) (inhibited : Bool) (earlier : List Trap) (missed : Bool) (acts : List CpuAct)
    (s : State) (hs : s.splimArmed = true) : (runActs start inhibited earlier missed acts s).StaysArmed := by
  induction acts generalizing s earlier missed with
  | nil =>
    unfold runActs
    split
    · trivial
    · exact hs
  | cons act acts ih =>
    unfold runActs
    refine (act.run_staysArmed start inhibited earlier s hs).bind fun u hu => Flow.StaysArmed.bind ?_ fun x hx => ih _ _ x hx
    split
    · exact hu
    · exact u.meet_staysArmed hu

theorem execOutside_armedOrReset (acts : List CpuAct) (s t : State) (hs : s.splimArmed = true)
    (h : execOutside acts s = .next t) : t.ArmedOrReset :=
  (runActs_staysArmed s _ [] false acts s hs).thenAdvance h

/-! ### What completes around an instruction -/

theorem State.iterate_splimArmed (s : State) (iterates : Bool) (at_ : PAddr) :
    (s.iterate iterates at_).splimArmed = s.splimArmed := by
  unfold State.iterate
  split
  · split <;> rfl
  · rfl

theorem State.retire_splimArmed (s : State) (i : Instr) (at_ : PAddr) : (s.retire i at_).splimArmed = s.splimArmed := by
  have hcount (x : State) : (x.countInstr i).splimArmed = x.splimArmed := by
    unfold State.countInstr
    split
    · rfl
    · exact x.countdown_splimArmed _ _
  exact (hcount _).trans (s.iterate_splimArmed _ _)

theorem State.retireOutside_splimArmed (s : State) (at_ : PAddr) : (s.retireOutside at_).splimArmed = s.splimArmed :=
  (State.countdown_splimArmed _ _ _).trans (s.iterate_splimArmed _ _)

/-- A device Reset leaves no REPEAT loop. -/
theorem State.iterate_deviceReset (s : State) (conflict iterates : Bool) (at_ : PAddr) :
    (s.deviceReset conflict).iterate iterates at_ = s.deviceReset conflict := by
  have h : (s.deviceReset conflict).repeatActive = false := by
    show (0x0000#16).getLsbD 4 = false; decide
  unfold State.iterate
  rw [h, Bool.and_false]
  rfl

/-- A device Reset leaves no DISI window. -/
theorem State.countdown_deviceReset (s : State) (conflict : Bool) (lo hi : Nat) :
    (s.deviceReset conflict).countdown lo hi = s.deviceReset conflict := by
  have h : (s.deviceReset conflict).disiBit = false := by
    show (0x8000#16).getLsbD 14 = false; decide
  unfold State.countdown
  rw [h]
  rfl

/-- A device Reset leaves no skid count and no old mask value. -/
theorem State.dropCleared_deviceReset (s : State) (conflict : Bool) :
    (s.deviceReset conflict).dropCleared = s.deviceReset conflict := by
  have hskid : (s.deviceReset conflict).skid = { stack := 0, math := 0, dmac := 0, genericSoft := 0 } := rfl
  unfold State.dropCleared
  simp only [hskid, ite_self]
  rfl

/-- What completes around an instruction leaves a state just reset as it is. -/
theorem State.retire_deviceReset (s : State) (conflict : Bool) (i : Instr) (at_ : PAddr) :
    (s.deviceReset conflict).retire i at_ = s.deviceReset conflict := by
  have hcount : (s.deviceReset conflict).countInstr i = s.deviceReset conflict := by
    unfold State.countInstr
    split
    · rfl
    · exact s.countdown_deviceReset conflict _ _
  rw [State.retire, State.iterate_deviceReset, hcount, State.dropCleared_deviceReset]

theorem State.retireOutside_deviceReset (s : State) (conflict : Bool) (at_ : PAddr) :
    (s.deviceReset conflict).retireOutside at_ = s.deviceReset conflict := by
  rw [State.retireOutside, State.iterate_deviceReset, State.countdown_deviceReset, State.dropCleared_deviceReset]

theorem State.ArmedOrReset.retire {u : State} (h : u.ArmedOrReset) (i : Instr) (at_ : PAddr) :
    (u.retire i at_).ArmedOrReset := by
  rcases h with h | ⟨s, conflict, rfl⟩
  · exact .inl ((u.retire_splimArmed i at_).trans h)
  · exact .inr ⟨s, conflict, s.retire_deviceReset conflict i at_⟩

theorem State.ArmedOrReset.retireOutside {u : State} (h : u.ArmedOrReset) (at_ : PAddr) :
    (u.retireOutside at_).ArmedOrReset := by
  rcases h with h | ⟨s, conflict, rfl⟩
  · exact .inl ((u.retireOutside_splimArmed at_).trans h)
  · exact .inr ⟨s, conflict, s.retireOutside_deviceReset conflict at_⟩

theorem State.ArmedOrReset.settle {u : State} (h : u.ArmedOrReset) : u.settle.ArmedOrReset := by
  rcases h with h | h
  · exact .inl h
  · exact .inr (State.justReset_settle h)

/-! ### The step -/

theorem State.badFetch_armedOrReset (s t : State) (hs : s.splimArmed = true) (h : s.badFetch = .next t) : t.ArmedOrReset := by
  unfold State.badFetch at h
  split at h
  · split at h
    · cases h
    · cases h; exact .inl hs
  · exact (raiseCause_staysArmed .address s hs).outcome h

theorem runNext_armedOrReset (during : List (List Event)) (s t : State) (hs : s.splimArmed = true)
    (h : runNext during s = .next t) : t.ArmedOrReset := by
  have hbegin : (s.begin during).StaysArmed := State.meet_staysArmed _ hs
  obtain ⟨x, rfl, hcut | ⟨s2, hgo, hrun⟩⟩ := runNext_next during s t h
  · rw [hcut] at hbegin
    exact State.ArmedOrReset.settle (.inr hbegin)
  · rw [hgo] at hbegin
    rcases hrun with ⟨-, hx⟩ | ⟨i, u, -, hu, rfl⟩ | ⟨acts, u, -, hu, rfl⟩
    · exact (s2.badFetch_armedOrReset x hbegin hx).settle
    · exact ((exec_armedOrReset i s2 u hbegin hu).retire i s2.pc).settle
    · exact ((execOutside_armedOrReset acts s2 u hbegin hu).retireOutside s2.pc).settle

theorem State.wake_splimArmed (s : State) : s.wake.splimArmed = s.splimArmed := by
  have hdraw : (s.drawBetween 0 s.disicnt.toNat).2.splimArmed = s.splimArmed := by
    unfold State.drawBetween; split <;> rfl
  unfold State.wake
  simp only
  split <;> exact hdraw

theorem step_armedOrReset (s t : State) (h : step s = .next t) (hs : s.splimArmed = true) : t.ArmedOrReset := by
  have hn : s.nextAction.2.splimArmed = true := by rw [s.nextAction_frame]; exact hs
  rcases step_next s t h with ⟨e, -, he⟩ | ⟨-, rfl⟩ | ⟨-, rfl⟩ | ⟨src, level, -, he⟩ | ⟨during, -, hr⟩
  · exact (e.apply_staysArmed _ hn).outcome ((Flow.outcome_eq_next _ t).mpr he)
  · exact .inl hn
  · exact .inl ((State.wake_splimArmed _).trans hn)
  · exact enterException_armedOrReset src level _ t hn he
  · exact runNext_armedOrReset during _ t hn hr

/-! ### The comparison with SPLIM -/

/-- The comparison with SPLIM is made only while the check is armed (R94, R70). -/
theorem State.stackCauses_unarmed (s : State) (ea limit : Word) (wraps : Bool) (hs : s.splimArmed = false) :
    { s with splim := limit }.stackCauses ea wraps = s.stackCauses ea wraps := by
  unfold State.stackCauses
  rw [hs]
  rfl

theorem execWrite_splim_arms (v : Word) (s : State) : ∃ t, exec (.write .splim v) s = .next t ∧ t.splimArmed = true :=
  ⟨_, rfl, State.advance_splimArmed _ 1⟩

/-- Settles O15: a write to SPLIM arms the check, every operation of a step keeps it armed or is cut short by a device Reset,
and what completes around an instruction leaves a state just reset as it is. -/
theorem splimStaysArmedUntilReset : Obligations.SPLIMStaysArmedUntilReset :=
  ⟨rfl, fun _ _ => rfl, fun s v => execWrite_splim_arms v s, step_armedOrReset, State.stackCauses_unarmed⟩

end Sys2Proof.Machine
end

section
/-! Interrupt flags and arbitration (spec/60_exceptions.md R213, R220 to R234, R280 to R283): what setting the flag of a source
changes, what arbitration chooses, and why a source of level 0 is disabled. -/

namespace Sys2Proof.Machine

/-! ### Setting the flag of a source -/

/-- A register of a family reads back what was written to it, and the others of the family keep. -/
theorem regAt_set {k : Nat} (f : Vector Word k) (i x : Nat) (v : Word) (hi : i < k) :
    regAt (f.set i v hi) x = if x = i then v else regAt f x := by
  unfold regAt
  rw [Vector.getElem?_set]
  by_cases h : x = i
  · subst h; simp
  · rw [if_neg (Ne.symm h), if_neg h]

/-- A source's flag goes to an IFS register and nowhere else. -/
theorem State.setIrqFlag_frame (s : State) (n : Irq) : s.setIrqFlag n = { s with ifs := (s.setIrqFlag n).ifs } := by
  unfold State.setIrqFlag; split <;> rfl

@[simp] theorem State.setIrqFlag_irqEnable (s : State) (n : Irq) (m : Nat) :
    (s.setIrqFlag n).irqEnable m = s.irqEnable m := by rw [s.setIrqFlag_frame n]; rfl

@[simp] theorem State.setIrqFlag_irqPriority (s : State) (n : Irq) (m : Nat) :
    (s.setIrqFlag n).irqPriority m = s.irqPriority m := by rw [s.setIrqFlag_frame n]; rfl

@[simp] theorem State.setIrqFlag_effIpl (s : State) (n : Irq) : (s.setIrqFlag n).effIpl = s.effIpl := by
  rw [s.setIrqFlag_frame n]; rfl

@[simp] theorem State.setIrqFlag_disiMasked (s : State) (n : Irq) (m : Nat) :
    (s.setIrqFlag n).disiMasked m = s.disiMasked m := by rw [s.setIrqFlag_frame n]; rfl

@[simp] theorem State.setIrqFlag_cfg (s : State) (n : Irq) : (s.setIrqFlag n).cfg = s.cfg := by
  rw [s.setIrqFlag_frame n]

@[simp] theorem State.setIrqFlag_trapLevel (s : State) (n : Irq) (t : Trap) :
    (s.setIrqFlag n).trapLevel t = s.trapLevel t := by rw [s.setIrqFlag_frame n]; rfl

@[simp] theorem State.setIrqFlag_bestTrap (s : State) (n : Irq) : (s.setIrqFlag n).bestTrap = s.bestTrap := by
  rw [s.setIrqFlag_frame n]; rfl

theorem State.setIrqFlag_ifs (s : State) (n : Irq) (h : s.cfg.irqImpl.getLsbD n.val = true) (x : Nat) :
    regAt (s.setIrqFlag n).ifs x =
      if x = n.val / 16 then setBit (regAt s.ifs x) (n.val % 16) true else regAt s.ifs x := by
  unfold State.setIrqFlag
  rw [if_pos h, regAt_set]
  split
  · next hx => rw [hx]
  · rfl

theorem State.setIrqFlag_irqFlag_same (s : State) (n : Irq) (h : s.cfg.irqImpl.getLsbD n.val = true) :
    (s.setIrqFlag n).irqFlag n.val = true := by
  unfold State.irqFlag
  rw [s.setIrqFlag_cfg, h, s.setIrqFlag_ifs n h, if_pos rfl, setBit_getLsbD _ _ _ _ (by omega), if_pos rfl]
  rfl

/-- Two sources share an IFS register or a bit position, never both. -/
theorem State.setIrqFlag_irqFlag_other (s : State) (n : Irq) (m : Nat) (hm : m ≠ n.val) :
    (s.setIrqFlag n).irqFlag m = s.irqFlag m := by
  by_cases h : s.cfg.irqImpl.getLsbD n.val = true
  · unfold State.irqFlag
    rw [s.setIrqFlag_cfg, s.setIrqFlag_ifs n h]
    by_cases hx : m / 16 = n.val / 16
    · have hbit : m % 16 ≠ n.val % 16 := by omega
      rw [if_pos hx, setBit_getLsbD _ _ _ _ (by omega), if_neg hbit]
    · rw [if_neg hx]
  · unfold State.setIrqFlag; rw [if_neg h]

/-- Settles O57: the peripheral's event is `setIrqFlag`, and an edge of the selected polarity is the same event. -/
theorem externalEdgeSetsFlag : Obligations.ExternalEdgeSetsFlag := by
  intro s n h
  refine ⟨s.setIrqFlag n, rfl, s.setIrqFlag_irqFlag_same n h, fun m _ hm => s.setIrqFlag_irqFlag_other n m hm,
    s.setIrqFlag_frame n, fun k hk => ?_⟩
  subst hk
  exact ⟨rfl, rfl⟩

/-! ### What arbitration chooses -/

/-- A candidate for entry requests (R220), passes the level mask (R221) and is not DISI-masked (R223). -/
theorem State.candidate_iff (s : State) (n : Nat) :
    s.candidate n = true ↔ s.irqFlag n = true ∧ s.irqEnable n = true ∧ s.effIpl < s.irqPriority n
      ∧ ¬ (s.disiBit = true ∧ 1 ≤ s.irqPriority n ∧ s.irqPriority n ≤ 6) := by
  simp only [State.candidate, State.requests, State.disiMasked, Bool.and_eq_true, Bool.not_eq_true', decide_eq_true_eq,
    ← Bool.not_eq_true, and_assoc]

theorem State.irqFlag_implemented (s : State) (n : Nat) (h : s.irqFlag n = true) : s.cfg.irqImpl.getLsbD n = true :=
  (Bool.and_eq_true_iff.mp h).1

/-- Settles O16: each clause is what the trap step and the interrupt step of arbitration find. -/
theorem arbitrationChoosesWinner : Obligations.ArbitrationChoosesWinner := by
  refine fun s => ⟨fun t level => ?_, fun n level => ?_, ?_, fun n => ?_⟩
  · rw [s.arbitrate_trap, s.bestTrap_some]
    exact ⟨fun ⟨⟨hp, hl, hmax⟩, he⟩ => ⟨hp, hl, he, hmax⟩, fun ⟨hp, hl, he, hmax⟩ => ⟨⟨hp, hl, hmax⟩, he⟩⟩
  · rw [s.arbitrate_irq, s.bestTrap_none, s.bestIrq_some]
    exact ⟨fun ⟨ht, ⟨hn, hc, hmax⟩, he⟩ => ⟨ht, hn, hc, he, hmax⟩, fun ⟨ht, hn, hc, he, hmax⟩ => ⟨ht, ⟨hn, hc, hmax⟩, he⟩⟩
  · rw [s.arbitrate_none, s.bestTrap_none, s.bestIrq_none]
  · rw [s.candidate_iff]
    exact ⟨fun h => ⟨s.irqFlag_implemented n h.1, h⟩, And.right⟩

/-! ### A source of level 0 -/

/-- No level mask lets level 0 pass (R213). -/
theorem State.candidate_level_zero (s : State) (n : Nat) (h : s.irqPriority n = 0) : s.candidate n = false := by
  rw [← Bool.not_eq_true, s.candidate_iff, h]
  rintro ⟨-, -, hlt, -⟩
  exact Nat.not_lt_zero _ hlt

theorem State.setIrqFlag_candidate (s : State) (n : Irq) (h : s.irqPriority n.val = 0) (m : Nat) :
    (s.setIrqFlag n).candidate m = s.candidate m := by
  by_cases hm : m = n.val
  · subst hm
    rw [s.candidate_level_zero _ h, State.candidate_level_zero _ _ ((s.setIrqFlag_irqPriority n _).trans h)]
  · simp [State.candidate, State.requests, s.setIrqFlag_irqFlag_other n m hm]

/-- The interrupt step of arbitration reads the candidates and their priorities only. -/
theorem State.bestIrq_congr {s t : State} (hc : ∀ m, t.candidate m = s.candidate m)
    (hp : ∀ m, t.irqPriority m = s.irqPriority m) (k : Nat) : t.bestIrq k = s.bestIrq k := by
  refine Option.ext fun n => ?_
  rw [State.bestIrq_some, State.bestIrq_some]
  simp only [hc, hp]

theorem State.setIrqFlag_arbitrate (s : State) (n : Irq) (h : s.irqPriority n.val = 0) :
    (s.setIrqFlag n).arbitrate = s.arbitrate := by
  unfold State.arbitrate
  rw [State.bestIrq_congr (s.setIrqFlag_candidate n h) (s.setIrqFlag_irqPriority n)]
  simp only [State.setIrqFlag_bestTrap, State.setIrqFlag_trapLevel, State.setIrqFlag_irqPriority]

/-- The flag of a source counts for the wake-up condition only at level 1 or more (R280, R281). -/
theorem State.setIrqFlag_wakes (s : State) (n : Irq) (h : s.irqPriority n.val = 0) :
    (s.setIrqFlag n).wakes = s.wakes := by
  have hsrc (m : Nat) : ((s.setIrqFlag n).requests m = true ∧ 1 ≤ (s.setIrqFlag n).irqPriority m) ↔
      (s.requests m = true ∧ 1 ≤ s.irqPriority m) := by
    by_cases hm : m = n.val
    · simp [hm, h]
    · simp [State.requests, s.setIrqFlag_irqFlag_other n m hm]
  have hbelow : (s.setIrqFlag n).wakesBelow 246 = s.wakesBelow 246 := by
    rw [Bool.eq_iff_iff, State.wakesBelow_iff, State.wakesBelow_iff]
    simp only [hsrc]
  rw [State.wakes, State.wakes, hbelow, s.setIrqFlag_bestTrap]

/-- Settles O19: a source of level 0 is no candidate, whatever its flag holds, and wakes nothing. -/
theorem levelZeroSourceIsDisabled : Obligations.LevelZeroSourceIsDisabled := by
  refine fun s n h => ⟨fun level hw => ?_, s.setIrqFlag_arbitrate n h, s.setIrqFlag_wakes n h⟩
  obtain ⟨-, hbest, -⟩ := (s.arbitrate_irq _ _).mp hw
  obtain ⟨-, hcand, -⟩ := (s.bestIrq_some _ _).mp hbest
  rw [s.candidate_level_zero _ h] at hcand
  cases hcand

end Sys2Proof.Machine
end

section
/-! The soft traps that SFTAC and DO raise (spec/60_exceptions.md R268, R275): a shift by more than 16 and a full DO stack. -/

namespace Sys2Proof.Machine

/-- A shift by more than 16 either way is the math error SFTACERR and nothing else (R157, R268). -/
theorem execSftac_invalid (acc : AccName) (amount : ShiftAmount) (s : State) (hd : s.cfg.hasDsp = true)
    (hn : s.shiftAmount amount < -16 ∨ 16 < s.shiftAmount amount) :
    execSftac acc amount s = .next ({ s with intcon1 := s.intcon1 ||| mathBits .sftac }.advance 1) := by
  simp only [execSftac, hd, Bool.not_true, Bool.false_eq_true, if_false, if_pos hn, raiseCause, Flow.thenAdvance_go]

/-- Settles O40: the math error changes INTCON1 only, and `pc` moves on inside program space. -/
theorem invalidShiftRaisesMathError : Obligations.InvalidShiftRaisesMathError := by
  intro s acc amount hd hroom hn
  have hadv := State.advance_room { s with intcon1 := s.intcon1 ||| mathBits .sftac } 1 hroom
  exact (execSftac_invalid acc amount s hd hn).trans (congrArg Host.Outcome.next hadv)

/-- DO with four loops under way is the generic soft trap DOOVR, and loads a free address (R158, R275). -/
theorem execDo_full (s : State) (h : 4 ≤ s.doLevel) :
    execDo s = .next ({ s with intcon3 := s.intcon3 ||| softBits .doovr, draws := s.draws + 1 }.setPc
      (BitVec.ofNat 24 s.draw.1)) := by
  unfold execDo
  rw [if_pos h]
  rfl

/-- Settles O42: the trap event changes INTCON3 only, and the free address one draw and `pc`. -/
theorem doOverflowKeepsLoopState : Obligations.DOOverflowKeepsLoopState :=
  fun s h => ⟨_, execDo_full s h.ge⟩

end Sys2Proof.Machine
end

section
/-! The decoder and the encoder (spec/30_encoding.md R112, R116): no word belongs to two rows of the table, so the row a word
belongs to says what it decodes to. -/

namespace Sys2Proof

/-! ### The rows of the table -/

/-- Two rows that ask for different bits where both ask for bits. -/
def OpRow.Differs (a b : OpRow) : Prop := a.matchBits &&& b.mask ≠ b.matchBits &&& a.mask

theorem OpRow.hits_iff (r : OpRow) (w : PWord) : r.hits w = true ↔ w &&& r.mask = r.matchBits := beq_iff_eq

/-- A word of one row shows the bits of that row under the mask of every other. -/
theorem OpRow.Differs.not_both {a b : OpRow} (h : a.Differs b) (w : PWord) : ¬ (a.hits w = true ∧ b.hits w = true) := by
  rintro ⟨ha, hb⟩
  rw [OpRow.hits_iff] at ha hb
  apply h
  rw [← ha, ← hb, BitVec.and_assoc, BitVec.and_assoc, BitVec.and_comm a.mask]

theorem opTable_differs : opTable.Pairwise OpRow.Differs := by unfold OpRow.Differs; decide

/-- A word of one row belongs to none that differs from it. -/
theorem OpRow.misses {a b : OpRow} {w : PWord} (ha : a.hits w = true)
    (h : a.matchBits &&& b.mask ≠ b.matchBits &&& a.mask := by decide) : b.hits w = false := by
  rw [← Bool.not_eq_true]
  exact fun hb => OpRow.Differs.not_both h w ⟨ha, hb⟩

/-! ### What a word of each row decodes to -/

section Rows

variable {w : PWord} (rest : List PWord)

theorem decode_nop (h : OpRow.nop.hits w = true) : decode (w :: rest) = .ok .nop rest := by
  simp only [decode, h, if_true]

theorem decode_goto_nil (h : OpRow.goto.hits w = true) : decode [w] = .reject .gotoTruncated := by
  simp only [decode, OpRow.misses (b := .nop) h, h, Bool.false_eq_true, if_false, if_true]

theorem decode_goto_cons (w2 : PWord) (h : OpRow.goto.hits w = true) : decode (w :: w2 :: rest) =
    if OpRow.gotoSecond.hits w2 then .ok (.goto (gotoTarget w w2)) rest else .reject .gotoSecondWord := by
  simp only [decode, OpRow.misses (b := .nop) h, h, Bool.false_eq_true, if_false, if_true]

/-- A word that is no NOP and no GOTO decodes by the one-word rows. -/
theorem decode_one_word (hnop : OpRow.nop.hits w = false) (hgoto : OpRow.goto.hits w = false) : decode (w :: rest) =
    if OpRow.ret.hits w then .ok .ret rest
    else if OpRow.retfie.hits w then .ok .retfie rest
    else if OpRow.bra.hits w then .ok (.bra (w.extractLsb' 0 16)) rest
    else if OpRow.disi.hits w then .ok (.disi (w.extractLsb' 0 14)) rest
    else if OpRow.reset.hits w then .ok .reset rest
    else if OpRow.pwrsav.hits w then .ok (.pwrsav (lowPowerOfBit (w.getLsbD 0))) rest
    else .reject .noSuchOpcode := by
  simp only [decode, hnop, hgoto, Bool.false_eq_true, if_false]

theorem decode_bra (h : OpRow.bra.hits w = true) : decode (w :: rest) = .ok (.bra (w.extractLsb' 0 16)) rest := by
  rw [decode_one_word rest (OpRow.misses h) (OpRow.misses h), OpRow.misses (b := .ret) h, OpRow.misses (b := .retfie) h, h]
  rfl

theorem decode_disi (h : OpRow.disi.hits w = true) : decode (w :: rest) = .ok (.disi (w.extractLsb' 0 14)) rest := by
  rw [decode_one_word rest (OpRow.misses h) (OpRow.misses h), OpRow.misses (b := .ret) h, OpRow.misses (b := .retfie) h,
    OpRow.misses (b := .bra) h, h]
  rfl

/-- A word of the row that is asked for next is not rejected. -/
theorem exists_reject_ite {b : Bool} {i : Instr} {d : Decoded} :
    (∃ why, (if b then .ok i rest else d) = .reject why) ↔ b = false ∧ ∃ why, d = .reject why := by
  cases b <;> simp

/-- The decoder rejects a word exactly when it belongs to no row, or is a GOTO without a second word of R112. -/
theorem decode_reject_iff : (∃ why, decode (w :: rest) = .reject why) ↔
    (∀ r ∈ opTable, r.hits w = false)
      ∨ (OpRow.goto.hits w = true ∧ ∀ w2 rest2, rest = w2 :: rest2 → OpRow.gotoSecond.hits w2 = false) := by
  have hrows : (∀ r ∈ opTable, r.hits w = false) ↔ OpRow.nop.hits w = false ∧ OpRow.goto.hits w = false
      ∧ OpRow.ret.hits w = false ∧ OpRow.retfie.hits w = false ∧ OpRow.bra.hits w = false ∧ OpRow.disi.hits w = false
      ∧ OpRow.reset.hits w = false ∧ OpRow.pwrsav.hits w = false := by simp [opTable]
  rw [hrows]
  clear hrows
  by_cases hgoto : OpRow.goto.hits w = true
  · cases rest with
    | nil => simp [decode_goto_nil hgoto, hgoto]
    | cons w2 rest2 =>
      rw [decode_goto_cons rest2 w2 hgoto]
      cases h2 : OpRow.gotoSecond.hits w2 <;> simp [hgoto, h2]
  · rw [Bool.not_eq_true] at hgoto
    by_cases hnop : OpRow.nop.hits w = true
    · simp [decode_nop rest hnop, hnop, hgoto]
    · rw [Bool.not_eq_true] at hnop
      rw [decode_one_word rest hnop hgoto]
      simp [hnop, hgoto, exists_reject_ite]

end Rows

/-- Settles O6: the rows ask for different bits, and the decoder passes a word by every row it does not belong to. -/
theorem decoderRejectsOtherWords : Obligations.DecoderRejectsOtherWords :=
  ⟨opTable_differs.imp OpRow.Differs.not_both, fun _ rest => decode_reject_iff rest⟩

/-- Settles O4: each word belongs to one row. -/
theorem writtenWordsDecode : Obligations.WrittenWordsDecode := by
  unfold Obligations.WrittenWordsDecode
  decide

/-! ### Encoded words -/

/-- The two words of a GOTO belong to its rows, and hold its target. -/
theorem goto_words (target : PAddr) (h0 : target.getLsbD 0 = false) (h23 : target.getLsbD 23 = false) :
    OpRow.goto.hits (0x04#8 ++ target.extractLsb' 1 15 ++ 0#1) = true
      ∧ OpRow.gotoSecond.hits (0#17 ++ target.extractLsb' 16 7) = true
      ∧ gotoTarget (0x04#8 ++ target.extractLsb' 1 15 ++ 0#1) (0#17 ++ target.extractLsb' 16 7) = target := by
  refine ⟨(OpRow.hits_iff _ _).mpr ?_, (OpRow.hits_iff _ _).mpr ?_, ?_⟩ <;>
    refine BitVec.eq_of_getLsbD_eq fun j hj => ?_
  · simp only [OpRow.goto, BitVec.getLsbD_and, BitVec.getLsbD_append, BitVec.getLsbD_extractLsb']
    interval_cases j <;> simp
  · simp only [OpRow.gotoSecond, BitVec.getLsbD_and, BitVec.getLsbD_append, BitVec.getLsbD_extractLsb']
    interval_cases j <;> simp
  · simp only [gotoTarget, BitVec.getLsbD_append, BitVec.getLsbD_extractLsb']
    interval_cases j <;> simp_all

/-- The word of a BRA belongs to its row, and holds its offset. -/
theorem bra_word (offset : Word) :
    OpRow.bra.hits (0x37#8 ++ offset) = true ∧ (0x37#8 ++ offset).extractLsb' 0 16 = offset := by
  refine ⟨(OpRow.hits_iff _ _).mpr ?_, ?_⟩ <;> refine BitVec.eq_of_getLsbD_eq fun j hj => ?_
  · simp only [OpRow.bra, BitVec.getLsbD_and, BitVec.getLsbD_append]
    interval_cases j <;> simp
  · simp only [BitVec.getLsbD_append, BitVec.getLsbD_extractLsb']
    interval_cases j <;> simp

/-- The word of a DISI belongs to its row, and holds its literal. -/
theorem disi_word (k : BitVec 14) :
    OpRow.disi.hits (0x3F0#10 ++ k) = true ∧ (0x3F0#10 ++ k).extractLsb' 0 14 = k := by
  refine ⟨(OpRow.hits_iff _ _).mpr ?_, ?_⟩ <;> refine BitVec.eq_of_getLsbD_eq fun j hj => ?_
  · simp only [OpRow.disi, BitVec.getLsbD_and, BitVec.getLsbD_append]
    interval_cases j <;> simp
  · simp only [BitVec.getLsbD_append, BitVec.getLsbD_extractLsb']
    interval_cases j <;> simp

/-- Decoding the words of a well-formed instruction gives it back, whatever words follow. -/
theorem decode_encode (i : Instr) (ws rest : List PWord) (hwf : i.wellFormed = true) (h : encode i = some ws) :
    decode (ws ++ rest) = .ok i rest := by
  cases i with
  | goto target =>
    simp only [Instr.wellFormed, Bool.and_eq_true, Bool.not_eq_true'] at hwf
    obtain ⟨hfirst, hsecond, htarget⟩ := goto_words target hwf.1 hwf.2
    cases h
    show decode (_ :: _ :: rest) = _
    rw [decode_goto_cons rest _ hfirst, if_pos hsecond, htarget]
  | bra offset =>
    cases h
    obtain ⟨hrow, hoffset⟩ := bra_word offset
    show decode (_ :: rest) = _
    rw [decode_bra rest hrow, hoffset]
  | disi k =>
    cases h
    obtain ⟨hrow, hk⟩ := disi_word k
    show decode (_ :: rest) = _
    rw [decode_disi rest hrow, hk]
  | pwrsav m => cases m <;> cases h <;> rfl
  | nop | ret | retfie | reset => cases h; rfl
  | rept | div _ | sftac _ _ | doLoop | movD _ _ | tblrd _ | btsc _ _ | btss _ _ | read _ | write _ _ | writeField _ _ =>
    cases h

open Laws in
/-- R112 gives an instruction words exactly when it encodes it, as many as R111 says. -/
theorem encodedLength (i : Instr) : EncodedLength.Statement i := by
  cases i with
  | nop => exact EncodedLength.nop
  | goto target => exact EncodedLength.goto target
  | ret => exact EncodedLength.ret
  | retfie => exact EncodedLength.retfie
  | bra offset => exact EncodedLength.bra offset
  | disi k => exact EncodedLength.disi k
  | reset => exact EncodedLength.reset
  | pwrsav m => exact EncodedLength.pwrsav m
  | rept => exact EncodedLength.rept
  | div divisor => exact EncodedLength.div divisor
  | sftac acc amount => exact EncodedLength.sftac acc amount
  | doLoop => exact EncodedLength.doLoop
  | movD src dst => exact EncodedLength.movD src dst
  | tblrd dst => exact EncodedLength.tblrd dst
  | btsc src bit => exact EncodedLength.btsc src bit
  | btss src bit => exact EncodedLength.btss src bit
  | read r => exact EncodedLength.read r
  | write r v => exact EncodedLength.write r v
  | writeField f v => exact EncodedLength.writeField f v

/-- Settles O5: the words of each encoded instruction belong to its row, which decodes them to it. -/
theorem decodeInvertsEncode : Obligations.DecodeInvertsEncode := by
  refine ⟨fun i => ?_, fun i ws rest hwf h => ⟨(encodedLength i).2 ws h, decode_encode i ws rest hwf h⟩⟩
  rw [← (encodedLength i).1, Option.isSome_eq_false_iff, Option.isNone_iff_eq_none]

end Sys2Proof
end

section
/-! What a step can change of the fields that the rules of the whole machine read (spec/10_state.md, spec/60_exceptions.md): every
operation but an entry's last part is a run of a few kinds of effects, or a device Reset cut it short. An invariant of a run
is then one case per kind of effect. -/

namespace Sys2Proof.Machine

/-! ### Effects -/

/-- What an operation is allowed: the registers a software write reaches, and under which mask; the registers a data write
reaches; whether IPL3 may become 1; whether events may wait for its data accesses; and where a REPEAT loop goes back to. -/
structure Reach where
  write  : RegName → Word → Prop
  data   : RegName → Prop
  ipl3   : Prop
  waits  : Prop
  loopAt : PAddr

/-- One effect of an operation on the state. -/
inductive Effect (A : Reach) : State → State → Prop
  /-- fields that no rule of the whole machine reads, and `pc`, which keeps, or holds an address -/
  | plain {s u : State}
      (frame : u = { s with w := u.w, pc := u.pc, sr := u.sr, inttreg := u.inttreg, osccon := u.osccon, accA := u.accA,
                            accB := u.accB, doStack := u.doStack, rpt := u.rpt, gieSeen := u.gieSeen, power := u.power,
                            agenda := u.agenda, readOut := u.readOut, draws := u.draws })
      (pc : u.pc = s.pc ∨ u.pcAligned ∨ u.pc = A.loopAt) : Effect A s u
  /-- SFA, IPL3, the DO level -/
  | corcon {s : State} (c : Word) (ipl3 : c.getLsbD 3 = true → s.ipl3 = true ∨ A.ipl3)
      (doLevel : { s with corcon := c }.doLevel ≤ 4 ∨ { s with corcon := c }.doLevel ≤ s.doLevel) :
      Effect A s { s with corcon := c }
  /-- DISICNT and the DISI bit: no window is opened, or left open, with a count of 0 -/
  | window {s u : State} (frame : u = { s with disicnt := u.disicnt, intcon2 := u.intcon2, draws := u.draws })
      (bits : ∀ j, j ≠ 14 → u.intcon2.getLsbD j = s.intcon2.getLsbD j)
      (counts : (s.disiBit = true → s.disicnt ≠ 0#14) → u.disiBit = true → u.disicnt ≠ 0#14) : Effect A s u
  | flag {s : State} (n : Irq) : Effect A s (s.setIrqFlag n)
  /-- a trap event -/
  | raise {s u : State} (c : Cause) (earlier : Earlier) (h : raiseCause c s earlier = .go u) : Effect A s u
  /-- a software write -/
  | write {s u : State} (r : RegName) (mask v : Word) (allowed : A.write r mask) (h : s.writeReg r mask v = .go u) :
      Effect A s u
  /-- a data write at the address of a register; one of the DMA controller leaves the old mask values -/
  | data {s u : State} (r : RegName) (mask v : Word) (earlier : Earlier) (lag : Lag) (allowed : A.data r)
      (h : s.writeReg r mask v earlier = .go u) (hlag : lag = u.lag ∨ lag = s.lag) :
      Effect A s { u with lag := lag }.dropCleared
  /-- a data write to memory -/
  | store {s : State} (ea : Word) (wide : Bool) (v : Word) (even : wide = true → ea.getLsbD 0 = false) :
      Effect A s (s.store ea wide v)
  /-- events that waited are taken -/
  | waits {s : State} (groups : List (List Event)) (allowed : A.waits)
      (fewer : ∀ e ∈ groups.flatten, e ∈ s.meanwhile.flatten) : Effect A s { s with meanwhile := groups }

/-- A run of effects. -/
abbrev Reaches (A : Reach) : State → State → Prop := Relation.ReflTransGen (Effect A)

/-- A device Reset on the way: from a state with the device and the memories of one that a run of effects reaches. -/
def ResetFrom (A : Reach) (s t : State) : Prop :=
  ∃ (x y : State) (conflict : Bool), Reaches A s x ∧ y.cfg = x.cfg ∧ y.mem = x.mem ∧ y.prog = x.prog
    ∧ (A.waits ∨ y.meanwhile = x.meanwhile) ∧ t = y.deviceReset conflict

/-- A run of effects, or a device Reset on the way. -/
def Ends (A : Reach) (s t : State) : Prop := Reaches A s t ∨ ResetFrom A s t

/-- An operation goes on by a run of effects, and only a device Reset cuts it short. -/
def Flow.Follows (A : Reach) (s : State) : Flow → Prop
  | .go u => Reaches A s u
  | .cut u => ResetFrom A s u
  | .fault _ | .refused _ => True

variable {A : Reach} {s t u : State}

theorem Reaches.plain
    (frame : u = { s with w := u.w, pc := u.pc, sr := u.sr, inttreg := u.inttreg, osccon := u.osccon, accA := u.accA,
                          accB := u.accB, doStack := u.doStack, rpt := u.rpt, gieSeen := u.gieSeen, power := u.power,
                          agenda := u.agenda, readOut := u.readOut, draws := u.draws })
    (pc : u.pc = s.pc ∨ u.pcAligned ∨ u.pc = A.loopAt := by exact .inl rfl) : Reaches A s u := .single (.plain frame pc)

/-- A device Reset of the state reached. -/
theorem Reaches.reset (h : Reaches A s u) (conflict : Bool) : ResetFrom A s (u.deviceReset conflict) :=
  ⟨u, u, conflict, h, rfl, rfl, rfl, .inr rfl, rfl⟩

theorem ResetFrom.of_reaches (h : Reaches A s u) (k : ResetFrom A u t) : ResetFrom A s t := by
  obtain ⟨x, y, conflict, hx, hy⟩ := k
  exact ⟨x, y, conflict, h.trans hx, hy⟩

theorem ResetFrom.justReset (h : ResetFrom A s t) : t.justReset := by
  obtain ⟨x, y, conflict, -, -, -, -, -, rfl⟩ := h
  exact y.deviceReset_justReset conflict

theorem Ends.of_reaches (h : Reaches A s u) (k : Ends A u t) : Ends A s t :=
  k.imp h.trans (ResetFrom.of_reaches h)

theorem Flow.Follows.of_reaches {f : Flow} (h : Reaches A s u) (k : f.Follows A u) : f.Follows A s := by
  cases f with
  | go x => exact h.trans k
  | cut x => exact ResetFrom.of_reaches h k
  | fault e | refused r => trivial

/-- Two operations reach what the second reaches from where the first goes on. -/
theorem Flow.Follows.bind {f : Flow} {k : State → Flow} (hf : f.Follows A s)
    (hk : ∀ u, Reaches A s u → (k u).Follows A u) : (f.bind k).Follows A s := by
  cases f with
  | go u => exact (hk u hf).of_reaches hf
  | cut u => exact hf
  | fault e | refused r => trivial

theorem Flow.Follows.outcome {f : Flow} (hf : f.Follows A s) (h : f.outcome = .next t) : Ends A s t := by
  rcases (Flow.outcome_eq_next f t).mp h with rfl | rfl
  · exact .inl hf
  · exact .inr hf

theorem Reaches.of_pc (frame : u = { s with pc := u.pc, draws := u.draws }) (pc : u.pcAligned) : Reaches A s u :=
  .plain (by rw [frame]) (.inr (.inl pc))

theorem State.advance_reaches (s : State) (n : Nat) : Reaches A s (s.advance n) :=
  .of_pc (s.advance_frame n).1 (s.advance_frame n).2

theorem State.setPc_reaches (s : State) (a : PAddr) : Reaches A s (s.setPc a) :=
  .single (.plain rfl (.inr (.inl (s.setPc_aligned a))))

theorem Flow.Follows.thenAdvance {f : Flow} (hf : f.Follows A s) (h : f.thenAdvance = .next t) : Ends A s t := by
  rcases (Flow.thenAdvance_eq_next f t).mp h with rfl | ⟨u, rfl, rfl⟩
  · exact .inr hf
  · exact .inl (Relation.ReflTransGen.trans hf (u.advance_reaches 1))

/-! ### Trap events and register writes -/

/-- What the hard trap conflict of a trap event leaves (R272). -/
theorem raiseCause_cut {c : Cause} {e : Earlier} (h : raiseCause c s e = .cut u) : u = s.deviceReset true := by
  have hard (t : Trap) (h : raiseHard t s e = .cut u) : u = s.deviceReset true := by
    unfold raiseHard at h
    split at h
    · cases h
    · split at h
      · cases h; rfl
      · cases h
  cases c with
  | oscillator => exact hard .oscillator h
  | address => exact hard .address h
  | genericHard => exact hard .genericHard h
  | stack | math d | dmac | genericSoft d => cases h

theorem raiseCause_raised {c : Cause} {e : Earlier} (h : raiseCause c s e = .go u) : Raised [c] s u := by
  have hall : raiseAll [c] s e = .go u := by
    show (raiseCause c s e).bind (fun s1 => raiseAll [] s1 e) = _
    rw [h]; rfl
  obtain ⟨x, hx, hk | hk⟩ := raiseAll_cases [c] s e <;> rw [hall] at hk <;> cases hk
  exact hx

theorem raiseCause_reaches (c : Cause) (s : State) (earlier : Earlier := .none) :
    (raiseCause c s earlier).Follows A s := by
  cases h : raiseCause c s earlier with
  | go u => exact .single (.raise c earlier h)
  | cut u => rw [raiseCause_cut h]; exact Reaches.reset .refl true
  | fault e | refused r => trivial

theorem raiseAll_reaches (cs : List Cause) (s : State) (earlier : Earlier := .none) :
    (raiseAll cs s earlier).Follows A s := by
  induction cs generalizing s with
  | nil => exact .refl
  | cons c cs ih => exact (raiseCause_reaches c s earlier).bind fun u _ => ih u

theorem State.writeReg_wrote {r : RegName} {mask v : Word} {e : Earlier} (h : s.writeReg r mask v e = .go u) :
    Wrote r s u := by
  rcases s.writeReg_cases r mask v e with ⟨h', -⟩ | ⟨x, hx, h' | h'⟩ <;> rw [h'] at h <;> cases h
  exact hx

/-- A hard trap conflict of a register write is a device Reset with the memories as they were. -/
theorem State.writeReg_cut {r : RegName} {mask v : Word} {e : Earlier} (h : s.writeReg r mask v e = .cut u) :
    ResetFrom A s u := by
  rcases s.writeReg_cases r mask v e with ⟨h', -⟩ | ⟨x, hx, h' | h'⟩ <;> rw [h'] at h <;> cases h
  exact ⟨s, x, true, .refl, hx.cpu.cfg, hx.mem, hx.cpu.prog, .inr hx.cpu.meanwhile, rfl⟩

theorem State.writeReg_reaches (s : State) (r : RegName) (mask v : Word) (ha : A.write r mask) :
    (s.writeReg r mask v).Follows A s := by
  cases h : s.writeReg r mask v with
  | go u => exact .single (.write r mask v ha h)
  | cut u => exact State.writeReg_cut h
  | fault e | refused r => trivial

/-! ### The device keeps -/

/-- The registers an address reaches are the device's, which no effect changes. -/
theorem Effect.cfg (h : Effect A s u) : u.cfg = s.cfg := by
  cases h with
  | plain frame pc => rw [frame]
  | corcon c h1 h2 => rfl
  | window frame bits counts => rw [frame]
  | flag n => exact s.setIrqFlag_cfg n
  | raise c e h => exact (raiseCause_raised h).keepsCpu.cfg
  | write r mask v ha h => exact (State.writeReg_wrote h).cpu.cfg
  | data r mask v e lag ha h hl => exact (State.writeReg_wrote h).cpu.cfg
  | store ea wide v he => rw [State.store_frame]
  | waits groups ha hf => rfl

end Sys2Proof.Machine
end

section
/-! Data writes, the stack, events, instructions: each is a run of effects, or a device Reset cut it short. -/

namespace Sys2Proof.Machine

variable {A : Reach} {s t u : State}

theorem Reaches.cfg (h : Reaches A s u) : u.cfg = s.cfg := by
  induction h with
  | refl => rfl
  | tail _ h ih => exact h.cfg.trans ih

/-- The registers at the data addresses of the events that wait may be written. -/
def State.EventsAllowed (s : State) (A : Reach) : Prop :=
  ∀ e ∈ s.meanwhile.flatten, ∀ ea ∈ e.writesAt, ∀ r, s.registerAt ea.toNat = some r → A.data r

/-- Raising a trap event and writing a register take no event that waits. -/
theorem Effect.meanwhile (h : Effect A s u) : ∀ e ∈ u.meanwhile.flatten, e ∈ s.meanwhile.flatten := by
  have keeps (h : u.meanwhile = s.meanwhile) : ∀ e ∈ u.meanwhile.flatten, e ∈ s.meanwhile.flatten := by
    rw [h]; exact fun _ => id
  cases h with
  | plain frame pc => exact keeps (by rw [frame])
  | corcon c h1 h2 => exact keeps rfl
  | window frame bits counts => exact keeps (by rw [frame])
  | flag n => exact keeps (by rw [s.setIrqFlag_frame n])
  | raise c e h => exact keeps (raiseCause_raised h).keepsCpu.meanwhile
  | write r mask v ha h => exact keeps (State.writeReg_wrote h).cpu.meanwhile
  | data r mask v e lag ha h hl => exact keeps (State.writeReg_wrote h).cpu.meanwhile
  | store ea wide v he => exact keeps (by rw [State.store_frame])
  | waits groups ha hf => exact hf

theorem State.EventsAllowed.of_reaches (hs : s.EventsAllowed A) (h : Reaches A s u) : u.EventsAllowed A := by
  induction h with
  | refl => exact hs
  | tail _ h ih =>
    intro e he ea hea r hr
    exact ih e (h.meanwhile e he) ea hea r (by rw [← hr]; exact (State.registerAt_of_cfg _ _ _ h.cfg).symm)

/-! ### Data writes and the stack -/

theorem State.dataWrite_reaches (s : State) (ea : Word) (wide : Bool) (v : Word) (e : Earlier)
    (heven : wide = true → ea.getLsbD 0 = false) (hd : ∀ r, s.registerAt ea.toNat = some r → A.data r) :
    (s.dataWrite ea wide v e).Follows A s := by
  unfold State.dataWrite
  split
  · rename_i r hr
    unfold State.writeRegAt
    generalize (if !wide && ea.getLsbD 0 then v <<< 8 else v) = x
    cases h : s.writeReg r (byteMask ea wide) x e with
    | go u => exact .single (.data r _ x e u.lag (hd r hr) h (.inl rfl))
    | cut u => exact State.writeReg_cut h
    | fault e | refused r => trivial
  · exact .single (.store ea wide v heven)

theorem State.drawEarlier_reaches (s : State) (traps : List Trap) : Reaches A s (s.drawEarlier traps).2 := by
  cases traps <;> exact .plain rfl

theorem State.setReg_reaches (s : State) (i : Fin 16) (v : Word) : Reaches A s (s.setReg i v) := .plain rfl

theorem State.push_reaches (s : State) (v : Word) (inhibited : Bool) (earlier : List Trap)
    (hd : ∀ r, s.registerAt s.sp.toNat = some r → A.data r) : (s.push v inhibited earlier).Follows A s := by
  refine Flow.Follows.of_reaches (s.drawEarlier_reaches earlier) (Flow.Follows.bind (raiseAll_reaches _ _ _) fun x hx =>
    Flow.Follows.bind ?_ fun y _ => y.setReg_reaches 15 _)
  split
  · exact .refl
  · rename_i hn
    have hodd : ¬ s.sp.getLsbD 0 = true := fun h0 => hn (by
      rw [List.contains_iff_mem.mpr (s.pushCauses_access.2 h0), Bool.or_true])
    refine x.dataWrite_reaches s.sp true v _ (fun _ => by simpa using hodd) fun r hr => hd r ?_
    rw [← hr]
    exact (State.registerAt_of_cfg _ _ _ (Reaches.cfg ((s.drawEarlier_reaches (A := A) earlier).trans hx))).symm

theorem State.pop_reaches (s : State) : Reaches A s s.pop.st := by
  have h := s.pop_frame.1
  generalize s.pop.st = x at h ⊢
  exact .plain (by rw [h]) (.inl (by rw [h]))

theorem State.popFrame_reaches (s : State) (between : State → Flow) (k : Word → Word → State → Flow)
    (hb : ∀ u, Reaches A s u → (between u).Follows A u)
    (hk : ∀ b a u, Reaches A s u → (k b a u).Follows A u) : (s.popFrame between k).Follows A s := by
  refine Flow.Follows.of_reaches s.pop_reaches (Flow.Follows.bind (raiseAll_reaches _ _ _) fun u hu =>
    (hb u (s.pop_reaches.trans hu)).bind fun x hx =>
      Flow.Follows.of_reaches x.pop_reaches (Flow.Follows.bind (raiseAll_reaches _ _ _) fun y hy => ?_))
  split
  · exact hk _ _ y ((s.pop_reaches.trans hu).trans (hx.trans (x.pop_reaches.trans hy)))
  · trivial

/-! ### Events of the other agents -/

theorem half_even (half : BitVec 15) : (half ++ 0#1).getLsbD 0 = false := by
  simp only [BitVec.getLsbD_append]
  rfl

theorem State.dmaStore_reaches (s : State) (ea : Word) (wide : Bool) (v : Word)
    (heven : wide = true → ea.getLsbD 0 = false) (hd : ∀ r, s.registerAt ea.toNat = some r → A.data r) :
    (s.dmaStore ea wide v).Follows A s := by
  unfold State.dmaStore
  split
  · exact .refl
  · split
    · split
      · rename_i r hr
        unfold State.writeRegAt
        generalize (if !wide && ea.getLsbD 0 then v <<< 8 else v) = x
        cases h : s.writeReg r (byteMask ea wide) x with
        | go u => exact .single (.data r _ x .none s.lag (hd r hr) h (.inr rfl))
        | cut u => exact State.writeReg_cut h
        | fault e | refused r => trivial
      · exact .single (.store ea wide v heven)
    · exact raiseCause_reaches _ s

theorem State.setDoLevel_reaches (s : State) (l : Nat) (hl : l ≤ 4) : Reaches A s (s.setDoLevel l) := by
  refine .single (.corcon _ (fun h => .inl ?_) (.inl ?_))
  · exact (s.setDoLevel_ipl3 l).symm.trans h
  · show (s.setDoLevel l).doLevel ≤ 4
    rw [s.setDoLevel_doLevel]; omega

theorem State.endLoop_reaches (s : State) : Reaches A s s.endLoop := by
  have level (x : State) (l : Nat) (hl : l ≤ x.doLevel) (h8 : l < 8) : Reaches A x (x.setDoLevel l) := by
    refine .single (.corcon _ (fun h => .inl ((x.setDoLevel_ipl3 l).symm.trans h)) (.inr ?_))
    show (x.setDoLevel l).doLevel ≤ x.doLevel
    rw [x.setDoLevel_doLevel]; omega
  have hlt : s.doLevel < 8 := (s.corcon.extractLsb' 8 3).isLt
  unfold State.endLoop
  split
  · exact .refl
  · split
    · exact Relation.ReflTransGen.trans (b := { s with sr := setBit s.sr 9 false }) (Reaches.plain rfl) (level _ 0 (Nat.zero_le _) (by omega))
    · exact level s _ (by omega) (by omega)

theorem Event.apply_reaches (e : Event) (s : State)
    (hd : ∀ ea ∈ e.writesAt, ∀ r, s.registerAt ea.toNat = some r → A.data r) : (e.apply s).Follows A s := by
  have flag (n : Irq) : Reaches A s (s.setIrqFlag n) := .single (.flag n)
  cases e with
  | irq n => exact flag n
  | extEdge k dir =>
    show Reaches A s (s.extEdge k dir)
    cases dir <;> simp only [State.extEdge] <;> split <;> first | exact .refl | exact flag _
  | oscFail => exact Flow.Follows.of_reaches (.plain rfl) (raiseCause_reaches .oscillator _)
  | dmaByte ea v => exact s.dmaStore_reaches ea false _ (fun h => by cases h) (hd ea rfl)
  | dmaWord half v => exact s.dmaStore_reaches _ true v (fun _ => half_even half) (hd _ rfl)
  | doLoopEnd =>
    unfold Event.apply
    simp only
    split
    · exact s.endLoop_reaches
    · exact .refl
  | externalReset => exact Reaches.reset .refl false
  | dmaCollision | dmaAddrErr | usbAccess off =>
    unfold Event.apply
    simp only
    split <;> first | exact .refl | exact raiseCause_reaches _ s

/-- A group of events; a Reset among them leaves the rest to come (R300). -/
theorem happen_reaches (hw : A.waits) (es : List Event) (s : State)
    (hd : ∀ e ∈ es, ∀ ea ∈ e.writesAt, ∀ r, s.registerAt ea.toNat = some r → A.data r) : (happen es s).Follows A s := by
  induction es generalizing s with
  | nil => exact .refl
  | cons e es ih =>
    have he := e.apply_reaches s (hd e List.mem_cons_self)
    unfold happen
    cases h : e.apply s with
    | go x =>
      rw [h] at he
      refine Flow.Follows.of_reaches he (ih x fun f hf ea hea r hr => hd f (List.mem_cons_of_mem _ hf) ea hea r ?_)
      rw [← hr]
      exact (State.registerAt_of_cfg _ _ _ (Reaches.cfg he)).symm
    | cut x =>
      rw [h] at he
      obtain ⟨y, z, conflict, hy, hcfg, hmem, hprog, -, rfl⟩ := he
      exact ⟨y, { z with meanwhile := es :: z.meanwhile }, conflict, hy, hcfg, hmem, hprog, .inl hw, rfl⟩
    | fault f | refused r => trivial

theorem State.meet_reaches (hw : A.waits) (s : State) (ha : s.EventsAllowed A) : s.meet.Follows A s := by
  unfold State.meet
  split
  · exact .refl
  · rename_i es rest hm
    have hmem (e : Event) (he : e ∈ es ∨ e ∈ rest.flatten) : e ∈ s.meanwhile.flatten := by
      rw [hm, List.flatten_cons, List.mem_append]; exact he
    exact Flow.Follows.of_reaches (.single (.waits rest hw fun e he => hmem e (.inr he)))
      (happen_reaches hw es _ fun e he => ha e (hmem e (.inl he)))

/-! ### Instructions of the table -/

theorem State.setRegFree_reaches (s : State) (i : Fin 16) : Reaches A s (s.setRegFree i) := .plain rfl

theorem State.pcPlus_reaches (s : State) (d : Int) : Reaches A s (s.pcPlus d).2 := by
  unfold State.pcPlus
  split
  · exact .refl
  · exact .plain rfl

theorem State.badJump_ends (s t : State) (target : PAddr) (words : Nat) (h : s.badJump target words = .next t) :
    Ends A s t := by
  refine (Flow.Follows.bind (raiseCause_reaches .address s) fun u _ => ?_).outcome h
  have hdraw : Reaches A u u.drawBool.2 := .plain rfl
  show Reaches A u _
  split
  · exact hdraw.trans (State.setPc_reaches _ _)
  · exact hdraw.trans (State.advance_reaches _ _)

theorem State.jump_ends (s t : State) (target : PAddr) (words : Nat) (h : s.jump target words = .next t) : Ends A s t := by
  unfold State.jump at h
  split at h
  · cases h; exact .inl (s.setPc_reaches target)
  · exact s.badJump_ends t target words h

theorem State.setSfa_reaches (s : State) (b : Bool) : Reaches A s (s.setSfa b) := by
  refine .single (.corcon _ (fun h => .inl ((s.setSfa_ipl3 b).symm.trans h)) (.inr (Nat.le_of_eq ?_)))
  exact congrArg BitVec.toNat (extract_congr 8 3 fun j h8 _ => by
    rw [setBit_getLsbD _ _ _ _ (by omega), if_neg (by omega)])

theorem State.setIpl3_reaches (h3 : A.ipl3) (s : State) (b : Bool) : Reaches A s (s.setIpl3 b) := by
  refine .single (.corcon _ (fun _ => .inr h3) (.inr (Nat.le_of_eq ?_)))
  exact congrArg BitVec.toNat (extract_congr 8 3 fun j h8 _ => by
    rw [setBit_getLsbD _ _ _ _ (by omega), if_neg (by omega)])

theorem execReturn_ends (hw : A.waits) (s t : State) (ha : s.EventsAllowed A) (h : execReturn s = .next t) : Ends A s t := by
  refine (s.popFrame_reaches State.meet _ (fun u hu => u.meet_reaches hw (ha.of_reaches hu)) fun b a u _ => ?_).outcome h
  have hdraw : Reaches A u u.drawBool.2 := .plain rfl
  exact (hdraw.trans (State.setSfa_reaches _ _)).trans (State.setPc_reaches _ _)

theorem execRetfie_ends (h3 : A.ipl3) (s t : State) (h : execRetfie s = .next t) : Ends A s t := by
  refine (s.popFrame_reaches .go _ (fun _ _ => .refl) fun b a u _ => ?_).outcome h
  have hsrl (v : Byte) : Reaches A u (u.setSrl v) := .plain rfl
  exact (((hsrl _).trans (State.setIpl3_reaches h3 _ _)).trans (State.setSfa_reaches _ _)).trans (State.setPc_reaches _ _)

theorem execMovD_ends (hw : A.waits) (src : Operand) (dst : Fin 16) (s t : State) (ha : s.EventsAllowed A)
    (h : execMovD src dst s = .next t) : Ends A s t := by
  refine ((raiseAll_reaches _ s).bind fun u hu => (u.meet_reaches hw (ha.of_reaches hu)).bind fun x _ =>
    (raiseAll_reaches _ x).bind fun y _ => ?_).thenAdvance h
  split
  · trivial
  · exact (y.setRegFree_reaches dst).trans (State.setRegFree_reaches _ _)

theorem State.fetchOperand_reaches (s : State) (o : Operand) : Reaches A s (s.fetchOperand o).st := by
  cases o with
  | reg i => exact .refl
  | paged ea => exact .plain rfl
  | indirect i disp | direct ea =>
    unfold State.fetchOperand
    simp only
    split
    · exact .plain rfl
    · exact .refl

theorem State.testAndSkip_ends (s t : State) (src : Operand) (bit : Fin 16) (skipsOn : Bool)
    (h : s.testAndSkip src bit skipsOn = .next t) : Ends A s t := by
  refine (Flow.Follows.of_reaches (s.fetchOperand_reaches src) ((raiseAll_reaches _ _).bind fun u _ => ?_)).outcome h
  split
  · trivial
  · show Reaches A u _
    split <;> exact u.advance_reaches _

theorem execSftac_ends (acc : AccName) (amount : ShiftAmount) (s t : State) (h : execSftac acc amount s = .next t) :
    Ends A s t := by
  unfold execSftac at h
  simp only at h
  split at h
  · cases h
  · split at h
    · exact (raiseCause_reaches _ s).thenAdvance h
    · refine (Flow.Follows.of_reaches (u := { s with draws := s.draws + 3 }) (.plain rfl)
        ((raiseAll_reaches _ _).bind fun u _ => ?_)).thenAdvance h
      cases acc <;> exact .plain rfl

theorem execDo_ends (s t : State) (h : execDo s = .next t) : Ends A s t := by
  unfold execDo at h
  split at h
  · refine ((raiseCause_reaches (.genericSoft .doovr) s).bind fun u _ => ?_).outcome h
    have hdraw : Reaches A u u.draw.2 := .plain rfl
    exact hdraw.trans (State.setPc_reaches _ _)
  · refine Flow.Follows.thenAdvance (f := .go s.startLoop) ?_ h
    have hloop : Reaches A s { s.draw.2 with doStack := s.doStack.setIfInBounds s.doLevel s.draw.1, sr := setBit s.sr 9 true } :=
      .plain rfl
    exact hloop.trans (State.setDoLevel_reaches _ _ (by omega))

theorem State.setDisi_reaches (s : State) (k : BitVec 14) :
    Reaches A s ({ s with disicnt := k }.setDisiBit (k != 0#14)) :=
  .single (.window rfl (fun j hj => by rw [State.setDisiBit_intcon2, setBit_getLsbD _ _ _ _ (by omega), if_neg hj])
    fun _ h => by simpa using h)

/-- Every instruction of the table is a run of effects, those it is allowed: WRITE and WRITEFIELD a software write, RETFIE the
restored IPL3. -/
theorem exec_ends (hw : A.waits) (i : Instr) (s t : State) (ha : s.EventsAllowed A)
    (hwrite : ∀ r v, i = .write r v → A.write r 0xFFFF#16) (hfield : ∀ f v, i = .writeField f v → A.write f.reg f.mask)
    (h3 : i = .retfie → A.ipl3) (h : exec i s = .next t) : Ends A s t := by
  have moves {x : State} (hx : Reaches A s x) (e : (.next (x.advance 1) : Host.Outcome State Fault Refusal) = .next t) :
      Ends A s t := Flow.Follows.thenAdvance (f := .go x) hx e
  cases i with
  | nop => exact moves .refl h
  | goto target => exact s.jump_ends t target 2 h
  | ret => exact execReturn_ends hw s t ha h
  | retfie => exact execRetfie_ends (h3 rfl) s t h
  | bra offset => exact .of_reaches (s.pcPlus_reaches _) (State.jump_ends _ t _ 1 h)
  | disi k => exact moves (s.setDisi_reaches k) h
  | reset => cases h; exact .inr (Reaches.reset .refl false)
  | pwrsav m => exact moves (.plain rfl) h
  | rept => exact moves (.plain rfl) h
  | div divisor =>
    refine ((raiseAll_reaches _ s).bind fun u _ => ?_).thenAdvance h
    exact (u.setRegFree_reaches _).trans (State.setRegFree_reaches _ _)
  | sftac acc amount => exact execSftac_ends acc amount s t h
  | doLoop => exact execDo_ends s t h
  | movD src dst => exact execMovD_ends hw src dst s t ha h
  | tblrd dst => exact moves (s.setRegFree_reaches dst) h
  | btsc src bit => exact s.testAndSkip_ends t src bit s.cfg.btscSkipsOn h
  | btss src bit => exact s.testAndSkip_ends t src bit s.cfg.btssSkipsOn h
  | read r => exact moves (.plain rfl) h
  | write r v => exact (s.writeReg_reaches r _ v (hwrite r v rfl)).thenAdvance h
  | writeField f v => exact (s.writeReg_reaches f.reg _ _ (hfield f v rfl)).thenAdvance h

/-! ### Instructions outside the table -/

theorem State.operandEa_direct (s : State) (ea : Word) : s.operandEa (.direct ea) 0 = ea := by
  show BitVec.ofInt 16 ((ea.toNat : Int) + (0 : Nat)) = ea
  simp

theorem State.accChanged_frame (s : State) (acc : AccName) :
    s.accChanged acc = { s with accA := (s.accChanged acc).accA, accB := (s.accChanged acc).accB,
                                sr := (s.accChanged acc).sr, draws := s.draws + 2 } := by cases acc <;> rfl

theorem State.accChanged_reaches (s : State) (acc : AccName) : Reaches A s (s.accChanged acc) := by
  have h := s.accChanged_frame acc
  generalize s.accChanged acc = x at h ⊢
  exact .plain (by rw [h]) (.inl (by rw [h]))

theorem CpuAct.effect_reaches (start : State) (inhibited : Bool) (e : Earlier) (act : CpuAct) (s : State)
    (hn : inhibited = false → Cause.address ∉ act.causes start)
    (hd : ∀ ea ∈ act.writesAt start, ∀ r, s.registerAt ea.toNat = some r → A.data r) :
    (act.effect start inhibited e s).Follows A s := by
  have write (dst : Operand) (wide : Bool) (v : Word) (hn : inhibited = false → Cause.address ∉ start.operandWriteCauses dst wide)
      (hform : start.operandWriteCauses dst wide = start.pointerCauses dst 0 ++ start.writeCauses (start.operandEa dst 0) wide)
      (hd : ∀ r, s.registerAt (start.operandEa dst 0).toNat = some r → A.data r) :
      (if inhibited then Flow.go s else s.dataWrite (start.operandEa dst 0) wide v e).Follows A s := by
    split
    · exact .refl
    · rename_i hi
      refine s.dataWrite_reaches _ wide v e (fun hwide => ?_) hd
      have hna := hn (by simpa using hi)
      rw [hform, List.mem_append, not_or, State.writeCauses, hwide] at hna
      by_contra ho
      rw [Bool.not_eq_false] at ho
      exact hna.2 (by rw [ho]; simp)
  cases act with
  | read src wide | macFetch space ea => exact .refl
  | write dst wide v =>
    cases dst with
    | reg i => exact State.setReg_reaches _ _ _
    | paged ea => unfold CpuAct.effect; simp only; split <;> exact .refl
    | indirect i disp => exact write (.indirect i disp) wide v hn rfl (hd _ rfl)
    | direct ea => exact write (.direct ea) wide v hn rfl (by rw [State.operandEa_direct]; exact hd _ rfl)
  | accOverflow acc | accCatastrophic acc =>
    show Reaches A s _
    split
    · exact s.accChanged_reaches acc
    · exact .refl

theorem runActs_reaches (hw : A.waits) (start : State) (inhibited : Bool) (acts : List CpuAct)
    (hn : inhibited = false → ∀ act ∈ acts, Cause.address ∉ act.causes start)
    (hd : ∀ act ∈ acts, ∀ ea ∈ act.writesAt start, ∀ r, start.registerAt ea.toNat = some r → A.data r)
    (earlier : List Trap) (missed : Bool) (s : State) (hcfg : s.cfg = start.cfg) (ha : s.EventsAllowed A) :
    (runActs start inhibited earlier missed acts s).Follows A s := by
  induction acts generalizing s earlier missed with
  | nil =>
    unfold runActs
    split
    · trivial
    · exact .refl
  | cons act acts ih =>
    have hcfgOf {x : State} (hx : Reaches A s x) : x.cfg = start.cfg := hx.cfg.trans hcfg
    unfold runActs CpuAct.run
    refine Flow.Follows.bind (Flow.Follows.of_reaches (s.drawEarlier_reaches earlier)
      (Flow.Follows.bind (raiseAll_reaches _ _ _) fun x hx => ?_)) fun x hx => Flow.Follows.bind ?_ fun y hy => ?_
    · have hcx := hcfgOf ((s.drawEarlier_reaches earlier).trans hx)
      exact act.effect_reaches start inhibited _ x (fun h => hn h act List.mem_cons_self) fun ea hea r hr =>
        hd act List.mem_cons_self ea hea r (by rw [← hr]; exact (State.registerAt_of_cfg _ _ _ hcx).symm)
    · split
      · exact .refl
      · exact x.meet_reaches hw (ha.of_reaches hx)
    · exact ih (fun h b hb => hn h b (List.mem_cons_of_mem _ hb)) (fun b hb => hd b (List.mem_cons_of_mem _ hb)) _ _ y
        (hcfgOf (hx.trans hy)) (ha.of_reaches (hx.trans hy))

theorem execOutside_ends (hw : A.waits) (acts : List CpuAct) (s t : State) (ha : s.EventsAllowed A)
    (hd : ∀ ea ∈ acts.filterMap (CpuAct.writesAt s), ∀ r, s.registerAt ea.toNat = some r → A.data r)
    (h : execOutside acts s = .next t) : Ends A s t := by
  refine (runActs_reaches hw s _ acts (fun hi act hact hc => ?_) (fun act hact ea hea => hd ea ?_) [] false s rfl ha).thenAdvance h
  · have : s.actsInhibited acts = true := List.contains_iff_mem.mpr (List.mem_flatMap.mpr ⟨act, hact, hc⟩)
    rw [hi] at this; cases this
  · exact List.mem_filterMap.mpr ⟨act, hact, hea⟩

/-! ### What completes around an instruction -/

theorem State.iterate_reaches (s : State) (iterates : Bool) : Reaches A s (s.iterate iterates A.loopAt) := by
  unfold State.iterate
  split
  · split
    · exact .plain rfl
    · exact .plain rfl (.inr (.inr rfl))
  · exact .refl

theorem State.countdown_reaches (s : State) (lo hi : Nat) : Reaches A s (s.countdown lo hi) := by
  obtain ⟨hframe, hbits, hcounts⟩ := s.countdown_frame lo hi
  exact .single (.window hframe hbits hcounts)

theorem State.countInstr_reaches (s : State) (i : Instr) : Reaches A s (s.countInstr i) := by
  unfold State.countInstr
  split
  · exact .refl
  · exact s.countdown_reaches _ _

/-- The parts of `retire` before the skid counters are looked at. -/
theorem State.retire_ends (h : Ends A s t) (i : Instr) (at_ : PAddr) (hat : at_ = A.loopAt) :
    ∃ x, Ends A s x ∧ t.retire i at_ = x.dropCleared := by
  subst hat
  rcases h with h | h
  · exact ⟨_, .inl ((h.trans (t.iterate_reaches (instrIterates i))).trans (State.countInstr_reaches _ i)), rfl⟩
  · obtain ⟨y, conflict, hy⟩ := h.justReset
    exact ⟨t, .inr h, by rw [hy, y.retire_deviceReset, y.dropCleared_deviceReset]⟩

theorem State.retireOutside_ends (h : Ends A s t) (at_ : PAddr) (hat : at_ = A.loopAt) :
    ∃ x, Ends A s x ∧ t.retireOutside at_ = x.dropCleared := by
  subst hat
  rcases h with h | h
  · exact ⟨_, .inl ((h.trans (t.iterate_reaches true)).trans (State.countdown_reaches _ _ _)), rfl⟩
  · obtain ⟨y, conflict, hy⟩ := h.justReset
    exact ⟨t, .inr h, by rw [hy, y.retireOutside_deviceReset, y.dropCleared_deviceReset]⟩

/-! ### The actions of a step -/

/-- What running the instruction at `pc` is allowed, with the events that occur during it. -/
def State.runReach (s : State) (during : List (List Event)) : Reach where
  write r mask := (mask = 0xFFFF#16 ∧ ∃ v, s.fetch = .instr (.write r v))
    ∨ ∃ f v, s.fetch = .instr (.writeField f v) ∧ r = f.reg ∧ mask = f.mask
  data r := s.writesData (.run during) r
  ipl3 := s.fetch = .instr .retfie
  waits := True
  loopAt := s.pc

/-- What any other action is allowed. -/
def State.otherReach (s : State) (a : Action) : Reach where
  write _ _ := False
  data r := s.writesData a r
  ipl3 := False
  waits := False
  loopAt := 0#24

/-- An instruction begins with the old mask values dropped and the events to come laid out. -/
def State.begun (s : State) (during : List (List Event)) : State := { s.clearLag with meanwhile := during }

section Run

variable {during : List (List Event)} (hw : A.waits) (hd : ∀ r, s.writesData (.run during) r → A.data r)

include hd in
theorem State.begun_eventsAllowed : (s.begun during).EventsAllowed A := fun e he ea hea r hr =>
  hd r ⟨ea, List.mem_append.mpr (.inl (List.mem_filterMap.mpr ⟨e, he, hea⟩)), hr⟩

include hw hd in
theorem State.begin_reaches : (s.begin during).Follows A (s.begun during) :=
  State.meet_reaches hw _ (State.begun_eventsAllowed hd)

end Run

/-- No event moves `pc`. -/
theorem State.begin_pc {during : List (List Event)} {s2 : State} (h : s.begin during = .go s2) : s2.pc = s.pc := by
  unfold State.begin State.meet at h
  split at h
  · cases h; rfl
  · exact (happen_go h).pc

theorem State.badFetch_ends (s t : State) (h : s.badFetch = .next t) : Ends A s t := by
  unfold State.badFetch at h
  split at h
  · split at h
    · cases h
    · cases h; exact .inl .refl
  · exact (raiseCause_reaches .address s).outcome h

/-- Running the instruction at `pc`: no instruction executes, or one does and the skid counters of traps that are no longer
pending go; either is a run of effects, or a device Reset cut it short. -/
theorem runNext_ends (during : List (List Event)) (s t : State) (h : runNext during s = .next t) :
    (∃ x, Ends { s.runReach during with write := fun _ _ => False } (s.begun during) x ∧ t = x.settle)
      ∨ ∃ x, Ends (s.runReach during) (s.begun during) x ∧ t = x.dropCleared.settle := by
  obtain ⟨x, rfl, hcut | ⟨s2, hgo, hrun⟩⟩ := runNext_next during s t h
  · have hbegin : (s.begin during).Follows { s.runReach during with write := fun _ _ => False } (s.begun during) :=
      State.begin_reaches trivial fun _ => id
    rw [hcut] at hbegin
    exact .inl ⟨x, .inr hbegin, rfl⟩
  have hpc := State.begin_pc hgo
  have hbegin {A : Reach} (hw : A.waits) (hd : ∀ r, s.writesData (.run during) r → A.data r) :
      Reaches A (s.begun during) s2 := by
    have := State.begin_reaches hw hd
    rwa [hgo] at this
  rcases hrun with ⟨-, hx⟩ | ⟨i, u, hi, hu, rfl⟩ | ⟨acts, u, ho, hu, rfl⟩
  · exact .inl ⟨x, .of_reaches (hbegin trivial fun _ => id) (s2.badFetch_ends x hx), rfl⟩
  all_goals
    right
    have hb : Reaches (s.runReach during) (s.begun during) s2 := hbegin trivial fun _ => id
    have ha := (State.begun_eventsAllowed (A := s.runReach during) fun _ => id).of_reaches hb
  · have hends : Ends (s.runReach during) s2 u := exec_ends trivial i s2 u ha
      (fun r v hr => .inl ⟨rfl, v, hr ▸ hi⟩) (fun f v hf => .inr ⟨f, v, hf ▸ hi, rfl, rfl⟩) (fun hr => hi.trans (congrArg Fetch.instr hr)) hu
    obtain ⟨y, hy, heq⟩ := State.retire_ends hends i s2.pc hpc
    exact ⟨y, .of_reaches hb hy, congrArg State.settle heq⟩
  · have hdata : ∀ ea ∈ acts.filterMap (CpuAct.writesAt s2), ∀ r, s2.registerAt ea.toNat = some r →
        (s.runReach during).data r := fun ea hea r hr => by
      refine ⟨ea, List.mem_append.mpr (.inr ?_), by rw [← hr]; exact (State.registerAt_of_cfg _ _ _ hb.cfg).symm⟩
      rw [hgo, ho]
      exact hea
    obtain ⟨y, hy, heq⟩ := State.retireOutside_ends (execOutside_ends trivial acts s2 u ha hdata hu) s2.pc hpc
    exact ⟨y, .of_reaches hb hy, congrArg State.settle heq⟩

theorem State.sp_mem_pushAddresses (s : State) : s.sp ∈ s.pushAddresses := by
  unfold State.pushAddresses
  split <;> exact List.mem_cons_self

theorem State.second_sp_mem_pushAddresses (s : State) {x : State} (h : s.push (frameA s.pc s.sfa) s.pushInhibited [] = .go x) :
    x.sp ∈ s.pushAddresses := by
  unfold State.pushAddresses
  rw [h]
  exact List.mem_cons_of_mem _ List.mem_cons_self

/-- The two pushes of an entry. -/
theorem State.pushFrame_reaches (s : State) (src : Source) (level : Nat) :
    (s.pushFrame (frameA s.pc s.sfa) (frameB s.srl s.ipl3 s.pc)).Follows (s.otherReach (.enter src level)) s := by
  unfold State.pushFrame
  have hpush := s.push_reaches (A := s.otherReach (.enter src level)) (frameA s.pc s.sfa) s.pushInhibited []
    fun r hr => ⟨s.sp, s.sp_mem_pushAddresses, hr⟩
  cases h : s.push (frameA s.pc s.sfa) s.pushInhibited [] with
  | go x =>
    rw [h] at hpush
    refine Flow.Follows.of_reaches hpush (x.push_reaches _ _ _ fun r hr =>
      ⟨x.sp, s.second_sp_mem_pushAddresses h, (State.registerAt_of_cfg s x _ (Reaches.cfg hpush)).symm.trans hr⟩)
  | cut x => rw [h] at hpush; exact hpush
  | fault f | refused r => trivial

theorem Event.apply_reaches_data (e : Event) (s : State) : (e.apply s).Follows (s.otherReach (.event e)) s :=
  e.apply_reaches s fun ea hea _ hr => ⟨ea, Option.mem_toList.mpr hea, hr⟩

/-- What a wake-up leaves: the CPU runs, with a free count up to the one held and no window where it is 0 (R280, U7). -/
theorem State.wake_frame (s : State) :
    s.wake = { s with power := .run, disicnt := s.wake.disicnt, intcon2 := s.wake.intcon2, draws := s.wake.draws }
      ∧ s.wake.disicnt.toNat ≤ s.disicnt.toNat
      ∧ s.wake.disiBit = (if s.wake.disicnt = 0#14 then false else s.disiBit)
      ∧ ∀ j, j ≠ 14 → s.wake.intcon2.getLsbD j = s.intcon2.getLsbD j := by
  have hdraw : (s.drawBetween 0 s.disicnt.toNat).2 = { s with draws := (s.drawBetween 0 s.disicnt.toNat).2.draws } := by
    unfold State.drawBetween; split <;> rfl
  have hle : (s.drawBetween 0 s.disicnt.toNat).1 ≤ s.disicnt.toNat := by
    unfold State.drawBetween
    split
    · exact Nat.zero_le _
    · show 0 + s.draw.1 % (s.disicnt.toNat - 0 + 1) ≤ _
      have := Nat.mod_lt s.draw.1 (show 0 < s.disicnt.toNat - 0 + 1 by omega)
      omega
  have hlt := s.disicnt.isLt
  unfold State.wake
  generalize s.drawBetween 0 s.disicnt.toNat = c at hdraw hle
  simp only
  split
  · rename_i h0
    refine ⟨by rw [hdraw]; rfl, ?_, ?_, fun j hj => ?_⟩
    · show (BitVec.ofNat 14 c.1).toNat ≤ _
      rw [h0]; exact Nat.zero_le _
    · rw [State.setDisiBit_disiBit, if_pos (by show BitVec.ofNat 14 c.1 = _; rw [h0])]
    · rw [State.setDisiBit_intcon2, setBit_getLsbD _ _ _ _ (by omega), if_neg hj, hdraw]
  · rename_i h0
    have hn : (BitVec.ofNat 14 c.1).toNat = c.1 := by rw [BitVec.toNat_ofNat]; omega
    refine ⟨by rw [hdraw], hn.le.trans hle, ?_, fun j hj => by rw [hdraw]⟩
    rw [if_neg fun hz => h0 (hn.symm.trans (congrArg BitVec.toNat hz)), hdraw]
    rfl

theorem State.wake_reaches (s : State) : Reaches A s s.wake := by
  obtain ⟨hframe, hle, hbit, hbits⟩ := s.wake_frame
  generalize s.wake = t at hframe hle hbit hbits ⊢
  refine Relation.ReflTransGen.trans (b := { s with power := .run }) (Reaches.plain rfl)
    (.single (.window (by rw [hframe]) hbits fun _ hopen hz => ?_))
  rw [hbit, if_pos hz] at hopen
  cases hopen

/-- Everything a step does but an entry: a run of effects, or a device Reset cut it short; a run of an instruction is
`runNext_ends`. -/
theorem step_ends (s t : State) (h : step s = .next t) :
    Ends (s.nextAction.2.otherReach s.nextAction.1) s.nextAction.2 t
      ∨ (∃ src level, s.nextAction.1 = .enter src level ∧ enterException src level s.nextAction.2 = .next t)
      ∨ ∃ during, s.nextAction.1 = .run during ∧ runNext during s.nextAction.2 = .next t := by
  rcases step_next s t h with ⟨e, he, ht⟩ | ⟨-, rfl⟩ | ⟨-, rfl⟩ | h | h
  · rw [he]
    exact .inl ((e.apply_reaches_data s.nextAction.2).outcome ((Flow.outcome_eq_next _ t).mpr ht))
  · exact .inl (.inl .refl)
  · exact .inl (.inl (State.wake_reaches _))
  · exact .inr (.inl h)
  · exact .inr (.inr h)

end Sys2Proof.Machine
end

section
/-! What every step keeps: program memory and the device (R104), IPL3 while no trap is entered and RETFIE does not run (R28, R141),
an interrupt flag while nothing writes its register (R51, R246). -/

namespace Sys2Proof.Machine

variable {A : Reach} {s t u : State}

theorem Reaches.keeps {P : State → Prop} (he : ∀ s u, Effect A s u → P s → P u) (h : Reaches A s t) (hs : P s) : P t := by
  induction h with
  | refl => exact hs
  | tail _ h ih => exact he _ _ h ih

/-- What effects and a device Reset keep, a run of effects keeps, cut short or not. -/
theorem Ends.keeps {P : State → Prop} (he : ∀ s u, Effect A s u → P s → P u)
    (hreset : ∀ (x y : State) (conflict : Bool), P x → y.cfg = x.cfg → y.mem = x.mem → y.prog = x.prog →
      P (y.deviceReset conflict)) (h : Ends A s t) (hs : P s) : P t := by
  rcases h with h | ⟨x, y, conflict, hx, hcfg, hmem, hprog, -, rfl⟩
  · exact Reaches.keeps he h hs
  · exact hreset x y conflict (Reaches.keeps he hx hs) hcfg hmem hprog

/-! ### Program memory and the device -/

theorem Effect.prog (h : Effect A s u) : u.prog = s.prog := by
  cases h with
  | plain frame pc => rw [frame]
  | corcon c h1 h2 => rfl
  | window frame bits counts => rw [frame]
  | flag n => rw [s.setIrqFlag_frame n]
  | raise c e h => exact (raiseCause_raised h).keepsCpu.prog
  | write r mask v ha h => exact (State.writeReg_wrote h).cpu.prog
  | data r mask v e lag ha h hl => exact (State.writeReg_wrote h).cpu.prog
  | store ea wide v he => rw [State.store_frame]
  | waits groups ha hf => rfl

theorem Ends.fixed (h : Ends A s t) : t.prog = s.prog ∧ t.cfg = s.cfg :=
  h.keeps (P := fun x => x.prog = s.prog ∧ x.cfg = s.cfg) (fun _ _ h hp => ⟨h.prog.trans hp.1, h.cfg.trans hp.2⟩)
    (fun _ _ _ hp hcfg _ hprog => ⟨hprog.trans hp.1, hcfg.trans hp.2⟩) ⟨rfl, rfl⟩

/-- What an entry leaves after its pushes left p: the new level, the loop state no rule gives, the vector's address and a
countdown. -/
structure Entered (src : Source) (p t : State) : Prop where
  frame : t = { p with sr := t.sr, corcon := t.corcon, inttreg := t.inttreg, doStack := t.doStack, rpt := t.rpt,
                       lag := t.lag, skid := t.skid, pc := t.pc, disicnt := t.disicnt, intcon2 := t.intcon2,
                       draws := t.draws }
  ipl3 : t.ipl3 = true → ∃ trap, src = .trap trap
  doLevel : t.doLevel ≤ 4
  skid : t.skid = (p.clearSkidOf src).skid
  lag : t.lag = { gie := none, masks := [] }
  pc : t.pcAligned
  bits : ∀ j, j ≠ 14 → t.intcon2.getLsbD j = p.intcon2.getLsbD j
  window : (p.disiBit = true → p.disicnt ≠ 0#14) → t.disiBit = true → t.disicnt ≠ 0#14

theorem State.entered (p : State) (src : Source) (level : Nat) (v : PAddr) (lo hi : Nat) :
    Entered src p (((p.enterLevel src level).setPc v).countdown lo hi) := by
  obtain ⟨hc, hbits, hcounts⟩ := ((p.enterLevel src level).setPc v).countdown_frame lo hi
  obtain ⟨hl, -, -, h3, -, hd⟩ := p.enterLevel_frame src level
  generalize ((p.enterLevel src level).setPc v).countdown lo hi = t at hc hbits hcounts ⊢
  generalize p.enterLevel src level = q at *
  have hpc := q.setPc_aligned v
  generalize ((p.setLevel src level).latch src level).inttreg = reg at hl
  refine ⟨by rw [hc, hl]; rfl, ?_, ?_, by rw [hc, hl]; rfl, by rw [hc, hl]; rfl, ?_, fun j hj => ?_, fun hp => ?_⟩
  · have hq : t.ipl3 = q.ipl3 := by unfold State.ipl3; rw [hc]; rfl
    rw [hq, h3]
    cases src with
    | trap trap => exact fun _ => ⟨trap, rfl⟩
    | irq n => exact fun h => by cases h
  · refine le_of_eq_of_le ?_ hd; unfold State.doLevel; rw [hc]; rfl
  · rw [hc]; exact hpc
  · rw [hbits j hj]; show q.intcon2.getLsbD j = _; rw [hl]
  · refine hcounts ?_
    show q.disiBit = true → q.disicnt ≠ 0#14
    rw [hl]; exact hp

/-- What an entry leaves comes from its pushes: a device Reset cut them short, or the rest of the entry follows them. -/
theorem enterException_ends (src : Source) (level : Nat) (s t : State) (h : enterException src level s = .next t) :
    ResetFrom (s.otherReach (.enter src level)) s t
      ∨ ∃ pushed, Reaches (s.otherReach (.enter src level)) s pushed ∧ Entered src pushed t := by
  have hpush := s.pushFrame_reaches src level
  rcases enterException_next src level s t h with hc | ⟨pushed, v, hg, -, rfl⟩
  · rw [hc] at hpush; exact .inl hpush
  · rw [hg] at hpush; exact .inr ⟨pushed, hpush, pushed.entered src level v _ _⟩

/-- Settles O12: no effect changes either, nor does a device Reset. -/
theorem programMemoryIsFixed : Obligations.ProgramMemoryIsFixed := by
  intro s t h
  have hn : s.nextAction.2.prog = s.prog ∧ s.nextAction.2.cfg = s.cfg := by rw [s.nextAction_frame]; exact ⟨rfl, rfl⟩
  suffices t.prog = s.nextAction.2.prog ∧ t.cfg = s.nextAction.2.cfg from ⟨this.1.trans hn.1, this.2.trans hn.2⟩
  rcases step_ends s t h with h | ⟨src, level, -, h⟩ | ⟨during, -, h⟩
  · exact h.fixed
  · rcases enterException_ends src level _ t h with h | ⟨pushed, hp, ht⟩
    · exact Ends.fixed (.inr h)
    · have := Ends.fixed (.inl hp)
      rw [ht.frame]; exact this
  · rcases runNext_ends during _ t h with ⟨x, hx, rfl⟩ | ⟨x, hx, rfl⟩ <;> exact hx.fixed

/-! ### IPL3 -/

/-- A software write of CORCON can clear IPL3 and not set it (R28). -/
theorem writeReg_ipl3 {r : RegName} {mask v : Word} {e : Earlier} (h : s.writeReg r mask v e = .go u)
    (h3 : u.ipl3 = true) : s.ipl3 = true := by
  by_cases hr : r = .corcon
  · subst hr
    cases h
    have h3 : (writeBits s.corcon corconWritable corconClearable mask v).getLsbD 3 = true := h3
    rw [writeBits_getLsbD, show corconWritable.getLsbD 3 = false by decide] at h3
    simp only [Bool.and_false, Bool.false_eq_true, if_false, Bool.and_eq_true] at h3
    exact h3.1
  · have hkeep : u.corcon = s.corcon :=
      (State.writeReg_wrote h).others .corcon ⟨Ne.symm hr, fun _ => nofun, fun _ => nofun⟩
    unfold State.ipl3 at h3 ⊢
    rwa [← hkeep]

/-- IPL3 becomes 1 only where it is allowed. -/
theorem Effect.ipl3 (hn : ¬ A.ipl3) (h : Effect A s u) (h3 : s.ipl3 = false) : u.ipl3 = false := by
  have keeps (h : u.corcon = s.corcon) : u.ipl3 = false := by unfold State.ipl3 at h3 ⊢; rwa [h]
  have stays (h : u.ipl3 = true → s.ipl3 = true) : u.ipl3 = false := by
    rw [← Bool.not_eq_true] at h3 ⊢; exact mt h h3
  cases h with
  | plain frame pc => exact keeps (by rw [frame])
  | corcon c h1 h2 => exact stays fun hc => (h1 hc).resolve_right hn
  | window frame bits counts => exact keeps (by rw [frame])
  | flag n => exact keeps (by rw [s.setIrqFlag_frame n])
  | raise c e h => exact keeps (by rw [(raiseCause_raised h).rest])
  | write r mask v ha h => exact stays (writeReg_ipl3 h)
  | data r mask v e lag ha h hl => exact stays fun h3 => writeReg_ipl3 h h3
  | store ea wide v he => exact keeps (by rw [State.store_frame])
  | waits groups ha hf => exact keeps rfl

theorem State.deviceReset_ipl3 (s : State) (conflict : Bool) : (s.deviceReset conflict).ipl3 = false := by
  show (0x0020#16).getLsbD 3 = false; decide

theorem Ends.ipl3 (hn : ¬ A.ipl3) (h : Ends A s t) (h3 : s.ipl3 = false) : t.ipl3 = false :=
  h.keeps (fun _ _ h => h.ipl3 hn) (fun _ y conflict _ _ _ _ => y.deviceReset_ipl3 conflict) h3

/-- Settles O13: no effect sets IPL3 but the CORCON that RETFIE restores, and the level of an entry only for a trap. -/
theorem ipl3SetOnlyByTrapEntryOrRetfie : Obligations.IPL3SetOnlyByTrapEntryOrRetfie := by
  intro s t h h3 ht
  have hn : s.nextAction.2.ipl3 = false := by rw [s.nextAction_frame]; exact h3
  have absurd3 {P : Prop} (hf : t.ipl3 = false) : P := by rw [hf] at ht; cases ht
  rcases step_ends s t h with h | ⟨src, level, ha, h⟩ | ⟨during, ha, h⟩
  · exact absurd3 (h.ipl3 id hn)
  · rcases enterException_ends src level _ t h with h | ⟨pushed, -, he⟩
    · exact absurd3 (Ends.ipl3 id (.inr h) hn)
    · obtain ⟨trap, rfl⟩ := he.ipl3 ht
      exact .inl ⟨trap, level, _, Prod.ext ha rfl⟩
  · by_cases hf : s.nextAction.2.fetch = .instr .retfie
    · exact .inr ⟨during, _, Prod.ext ha rfl, hf⟩
    · rcases runNext_ends during _ t h with ⟨x, hx, rfl⟩ | ⟨x, hx, rfl⟩
      · have hx3 := hx.ipl3 hf hn
        exact absurd3 hx3
      · have hx3 := hx.ipl3 hf hn
        exact absurd3 hx3

/-! ### Interrupt flags -/

theorem regAt_fin {k : Nat} (f : Vector Word k) (x : Fin k) : regAt f x.val = f[x] := by simp [regAt]

/-- A software write of an IFS register reaches the bits under its mask. -/
theorem writeReg_ifs {r : RegName} {mask v : Word} {e : Earlier} (h : s.writeReg r mask v e = .go u) (x : Fin 16) (b : Nat)
    (hr : r = .ifs x → mask.getLsbD b = false) : (u.ifs[x]).getLsbD b = (s.ifs[x]).getLsbD b := by
  by_cases he : r = .ifs x
  · have hm := hr he
    subst he
    cases h
    show ((s.ifs.set x.val (writeBits s.ifs[x] (irqBits s.cfg x.val) 0#16 mask v))[x]).getLsbD b = _
    rw [Fin.getElem_fin, Vector.getElem_set_self, writeBits_getLsbD, hm]
    simp
  · have hkeep : u.ifs[x] = s.ifs[x] :=
      (State.writeReg_wrote h).others (.ifs x) ⟨Ne.symm he, fun _ => nofun, fun _ => nofun⟩
    rw [hkeep]

/-- A set flag stays set under every effect but a write to its bit. -/
theorem Effect.irqFlag (n : Irq) (hw : ∀ x : Fin 16, x.val = n.val / 16 → ∀ mask, A.write (.ifs x) mask → mask.getLsbD (n.val % 16) = false)
    (hd : ∀ x : Fin 16, x.val = n.val / 16 → ¬ A.data (.ifs x)) (h : Effect A s u) (hs : s.irqFlag n.val = true) :
    u.irqFlag n.val = true := by
  have hx : n.val / 16 < 16 := by omega
  have bit (hb : (u.ifs[n.val / 16]).getLsbD (n.val % 16) = (s.ifs[n.val / 16]).getLsbD (n.val % 16)) :
      u.irqFlag n.val = true := by
    rw [← hs, State.irqFlag, State.irqFlag, h.cfg]
    congr 1
    rw [regAt_fin u.ifs ⟨n.val / 16, hx⟩, regAt_fin s.ifs ⟨n.val / 16, hx⟩]
    exact hb
  have keeps (h : u.ifs = s.ifs) : u.irqFlag n.val = true := bit (by rw [h])
  cases h with
  | plain frame pc => exact keeps (by rw [frame])
  | corcon c h1 h2 => exact keeps rfl
  | window frame bits counts => exact keeps (by rw [frame])
  | flag m =>
    by_cases hm : n = m
    · subst hm; exact s.setIrqFlag_irqFlag_same n (s.irqFlag_implemented _ hs)
    · rw [s.setIrqFlag_irqFlag_other m n.val fun e => hm (Fin.ext e)]; exact hs
  | raise c e h => exact keeps (by rw [(raiseCause_raised h).rest])
  | write r mask v ha h => exact bit (writeReg_ifs h ⟨_, hx⟩ _ fun hr => hw ⟨_, hx⟩ rfl mask (hr ▸ ha))
  | data r mask v e lag ha h hl => exact bit (writeReg_ifs h ⟨_, hx⟩ _ fun hr => absurd (hr ▸ ha) (hd ⟨_, hx⟩ rfl))
  | store ea wide v he => exact keeps (by rw [State.store_frame])
  | waits groups ha hf => exact keeps rfl

/-- A flag that goes was written. -/
theorem Reaches.irqFlag (n : Irq) (h : Reaches A s t) (hs : s.irqFlag n.val = true) (ht : t.irqFlag n.val = false) :
    (∃ x : Fin 16, x.val = n.val / 16 ∧ ∃ mask, A.write (.ifs x) mask ∧ mask.getLsbD (n.val % 16) = true)
      ∨ ∃ x : Fin 16, x.val = n.val / 16 ∧ A.data (.ifs x) := by
  by_contra hn
  simp only [not_or, not_exists, not_and, Bool.not_eq_true] at hn
  rw [h.keeps (P := fun x => x.irqFlag n.val = true) (fun _ _ h => h.irqFlag n hn.1 hn.2) hs] at ht
  cases ht

theorem Ends.irqFlag (n : Irq) (h : Ends A s t) (hs : s.irqFlag n.val = true) (ht : t.irqFlag n.val = false) :
    t.justReset ∨ (∃ x : Fin 16, x.val = n.val / 16 ∧ ∃ mask, A.write (.ifs x) mask ∧ mask.getLsbD (n.val % 16) = true)
      ∨ ∃ x : Fin 16, x.val = n.val / 16 ∧ A.data (.ifs x) :=
  h.symm.imp ResetFrom.justReset fun h => Reaches.irqFlag n h hs ht

/-- A field of one flag covers the bit it names. -/
theorem field_ifs_bit {f : FieldName} {x : Fin 16} {j : Nat} (hf : f.reg = .ifs x) (hj : f.mask.getLsbD j = true) :
    ∃ b : Fin 16, f = .ifsBit x b ∧ b.val = j := by
  cases f with
  | ifsBit y b =>
    injection hf with hf
    subst hf
    refine ⟨b, rfl, ?_⟩
    by_contra hb
    have hm : (FieldName.ifsBit y b).mask = BitVec.ofNat 16 (2 ^ b.val) := by
      simp [FieldName.mask, FieldName.low, FieldName.width]
    rw [hm, BitVec.getLsbD_ofNat, Nat.testBit_two_pow_of_ne hb, Bool.and_false] at hj
    cases hj
  | _ => cases hf

/-- Settles O14: effects set flags, and clear none but by a write to the bit. -/
theorem flagClearedOnlyBySoftwareOrReset : Obligations.FlagClearedOnlyBySoftwareOrReset := by
  intro s t n h hs ht
  have hn : s.nextAction.2.irqFlag n.val = true := by rw [s.nextAction_frame]; exact hs
  rcases step_ends s t h with h | ⟨src, level, ha, h⟩ | ⟨during, ha, h⟩
  · rcases h.irqFlag n hn ht with h | ⟨x, hx, mask, hw, -⟩ | ⟨x, hx, hd⟩
    · exact .inl h
    · exact hw.elim
    · exact .inr ⟨_, _, rfl, .inr (.inr ⟨x, hd, hx⟩)⟩
  · rcases enterException_ends src level _ t h with h | ⟨pushed, hp, he⟩
    · exact .inl h.justReset
    · rw [he.frame] at ht
      rcases Reaches.irqFlag n hp hn ht with ⟨x, hx, mask, hw, -⟩ | ⟨x, hx, hd⟩
      · exact hw.elim
      · exact .inr ⟨_, _, Prod.ext ha rfl, .inr (.inr ⟨x, hd, hx⟩)⟩
  · rcases runNext_ends during _ t h with ⟨x, hx, rfl⟩ | ⟨x, hx, rfl⟩
    · rcases hx.irqFlag n hn ht with h | ⟨x, hx, mask, hw, -⟩ | ⟨x, hx, hd⟩
      · exact .inl (State.justReset_settle h)
      · exact hw.elim
      · exact .inr ⟨_, _, Prod.ext ha rfl, .inr (.inr ⟨x, hd, hx⟩)⟩
    · rcases hx.irqFlag n hn ht with h | ⟨x, hx, mask, ⟨-, v, hw⟩ | ⟨f, v, hw, hr, rfl⟩, hb⟩ | ⟨x, hx, hd⟩
      · obtain ⟨y, conflict, rfl⟩ := h
        rw [y.dropCleared_deviceReset]
        exact .inl (State.justReset_settle (y.deviceReset_justReset conflict))
      · exact .inr ⟨_, _, Prod.ext ha rfl, .inl ⟨during, x, v, rfl, hw, hx⟩⟩
      · obtain ⟨b, rfl, hbit⟩ := field_ifs_bit hr.symm hb
        exact .inr ⟨_, _, Prod.ext ha rfl, .inr (.inl ⟨during, x, b, v, rfl, hw, hx, hbit⟩)⟩
      · exact .inr ⟨_, _, Prod.ext ha rfl, .inr (.inr ⟨x, hd, hx⟩)⟩

end Sys2Proof.Machine
end

section
/-! What a boundary decides (spec/60_exceptions.md R220 to R234, R262, R263, R280): the next action of the running CPU and of one
that sleeps. -/

namespace Sys2Proof.Machine

/-! ### The CPU sleeps -/

/-- The wake-up condition of R280 and D20: an enabled flag of level 1 or more, or a trap above the CPU level. -/
theorem State.wakes_iff (s : State) : s.wakes = true ↔
    (∃ n, n < 246 ∧ s.irqFlag n = true ∧ s.irqEnable n = true ∧ 1 ≤ s.irqPriority n)
      ∨ ∃ t, s.trapPending t = true ∧ s.cpuIpl < s.trapLevel t := by
  rw [State.wakes, Bool.or_eq_true, State.wakesBelow_iff, ← Option.ne_none_iff_isSome, ne_eq, s.bestTrap_none, not_not]
  simp only [State.requests, Bool.and_eq_true, and_assoc]

/-- The turn of a CPU that sleeps. -/
theorem State.cpuTurn_asleep (s : State) (h : s.power ≠ .run) :
    s.cpuTurn = if s.wakes then (.wake, s) else (.asleep, s) := by
  unfold State.cpuTurn
  cases hp : s.power with
  | run => exact absurd hp h
  | sleep | idle => rfl

theorem State.nextAction_idle (s : State) (h : s.agenda = []) : s.nextAction = s.cpuTurn := by
  unfold State.nextAction; rw [h]

/-- Settles O9: the CPU's turn is a wake-up where its condition holds and nothing where it does not. -/
theorem sleepingCpuOnlyWakes : Obligations.SleepingCpuOnlyWakes := by
  intro s hagenda hp
  have hnext := (s.nextAction_idle hagenda).trans (s.cpuTurn_asleep hp)
  constructor
  · intro hwake
    rw [if_pos (s.wakes_iff.mpr hwake)] at hnext
    obtain ⟨hframe, hle, hbit, hbits⟩ := s.wake_frame
    exact ⟨s.wake, by rw [step, hnext]; rfl, by rw [hframe], hle, hbit, hbits, hframe⟩
  · intro hn ht
    rw [if_neg fun hw => (s.wakes_iff.mp hw).elim hn ht] at hnext
    rw [step, hnext]; rfl

/-! ### The boundary -/

/-- A soft trap is entered, or held off for one more instruction, which counts. -/
theorem State.enterOrSkid_action (s : State) (t : Trap) (level : Nat) :
    (s.enterOrSkid t level).1 = .enter (.trap t) level
      ∨ ((s.enterOrSkid t level).1 = .run [] ∧ trapIsSoft t = true ∧ s.skidOf t < 2
          ∧ (s.enterOrSkid t level).2.skidOf t = s.skidOf t + 1) := by
  unfold State.enterOrSkid
  split
  · rename_i hc
    simp only [Bool.and_eq_true, decide_eq_true_eq] at hc
    split
    · refine .inr ⟨rfl, hc.1, hc.2, ?_⟩
      cases t <;> first | rfl | cases hc.1
    · exact .inl rfl
  · exact .inl rfl

/-- A boundary of the running CPU runs or enters. -/
theorem State.atBoundary_action (s : State) :
    s.atBoundary.1 = .run [] ∨ ∃ src level, s.atBoundary.1 = .enter src level := by
  unfold State.atBoundary
  simp only
  split
  · exact .inl rfl
  · rename_i t level _
    rcases s.sampleGie.maskView.2.enterOrSkid_action t level with h | ⟨h, -⟩
    · exact .inr ⟨_, _, h⟩
    · exact .inl h
  · exact .inr ⟨_, _, rfl⟩

/-- While the CPU runs, its turn is neither sleep nor a wake-up. -/
theorem State.nextAction_awake (s : State) (hp : s.power = .run) :
    s.nextAction.1 ≠ .asleep ∧ s.nextAction.1 ≠ .wake := by
  have hturn : s.cpuTurn = s.atBoundary := by unfold State.cpuTurn; rw [hp]
  have hmeet (during : List (List Event)) (a : Action) (x : State) (ha : a = .run [] ∨ ∃ src level, a = .enter src level) :
      (meetEvents during (a, x)).1 ≠ .asleep ∧ (meetEvents during (a, x)).1 ≠ .wake := by
    rcases ha with rfl | ⟨src, level, rfl⟩ <;> exact ⟨nofun, nofun⟩
  unfold State.nextAction
  split
  · rw [hturn]
    rcases s.atBoundary_action with h | ⟨src, level, h⟩ <;> rw [h] <;> exact ⟨nofun, nofun⟩
  · rw [hturn]; exact hmeet _ _ _ s.atBoundary_action
  · exact ⟨nofun, nofun⟩

theorem State.sampleGie_trapPending (s : State) (t : Trap) : s.sampleGie.trapPending t = s.trapPending t := by
  rw [s.sampleGie_frame]; cases t <;> rfl

theorem State.sampleGie_trapLevel (s : State) (t : Trap) : s.sampleGie.trapLevel t = s.trapLevel t := by
  rw [s.sampleGie_frame]; cases t <;> rfl

theorem State.maskView_trapLevel (s : State) (t : Trap) : s.maskView.1.trapLevel t = s.trapLevel t := by
  unfold State.maskView
  split
  · simp only; rw [State.withSomeOldMasks_frame]; cases t <;> rfl
  · rfl

theorem State.sampleGie_stops (s : State) (t : Trap) : s.sampleGie.Stops t ↔ s.Stops t := by
  rw [State.Stops, State.Stops, s.sampleGie_trapPending, s.sampleGie_trapLevel]
  have hc : s.sampleGie.cpuIpl = s.cpuIpl := by rw [s.sampleGie_frame]; rfl
  have hh : s.sampleGie.heldByOldIpl t = s.heldByOldIpl t := by rw [s.sampleGie_frame]; rfl
  rw [hc, hh]

/-- What the boundary does with what it decides: nothing to enter. -/
theorem State.atBoundary_none {s : State} (h : s.sampleGie.boundaryWinner s.sampleGie.maskView.1 = none) :
    s.atBoundary = (.run [], s.sampleGie.maskView.2) := by
  unfold State.atBoundary; simp only [h]

theorem State.atBoundary_trap {s : State} {t : Trap} {level : Nat}
    (h : s.sampleGie.boundaryWinner s.sampleGie.maskView.1 = some (.trap t, level)) :
    s.atBoundary = s.sampleGie.maskView.2.enterOrSkid t level := by
  unfold State.atBoundary; simp only [h]

theorem State.atBoundary_irq {s : State} {n level : Nat}
    (h : s.sampleGie.boundaryWinner s.sampleGie.maskView.1 = some (.irq n, level)) :
    s.atBoundary = (.enter (.irq n) level, s.sampleGie.maskView.2) := by
  unfold State.atBoundary; simp only [h]

/-- A hard trap is entered, never held off. -/
theorem State.enterOrSkid_hard (s : State) (t : Trap) (level : Nat) (h : trapIsSoft t = false) :
    s.enterOrSkid t level = (.enter (.trap t) level, s) := by
  unfold State.enterOrSkid; simp [h]

/-! ### A quiet boundary -/

/-- With no old value to see, a boundary sees the masks and GIE as they are. -/
theorem State.sampleGie_idle (s : State) (h : s.lag.gie = none) : s.sampleGie = { s with gieSeen := s.gie } := by
  unfold State.sampleGie; rw [h]

theorem State.maskView_idle (s : State) (h : s.lag.masks = []) : s.maskView = (s, s) := by
  unfold State.maskView; rw [h]; split <;> rfl

/-- A trap that stops execution is one that arbitration finds. -/
theorem State.not_stops_of_bestTrap (s : State) (h : s.bestTrap = none) (t : Trap) : ¬ s.Stops t :=
  fun ⟨_, hp, hl, _⟩ => s.bestTrap_none.mp h ⟨t, hp, hl⟩

/-- Settles O8: at a quiet boundary arbitration finds nothing; the other actions are what `perform` does with them. -/
theorem quietBoundaryRuns : Obligations.QuietBoundaryRuns := by
  refine ⟨fun s ⟨hagenda, hp, hlag, harb⟩ => ?_, fun s s1 src level h => by rw [step, h]; rfl, fun s e rest h => ?_⟩
  · have hseen := s.sampleGie_idle (by rw [hlag])
    have hview : s.sampleGie.maskView = (s.sampleGie, s.sampleGie) := State.maskView_idle _ (by rw [hseen]; exact congrArg Lag.masks hlag)
    rw [← hseen] at harb
    have hwin : s.sampleGie.boundaryWinner s.sampleGie.maskView.1 = none := by
      rw [hview, State.boundaryWinner_of_none _ _ (State.not_stops_of_bestTrap _ ((State.arbitrate_none _).mp harb).1)]
      exact harb
    have hturn : s.cpuTurn = s.atBoundary := by unfold State.cpuTurn; rw [hp]
    rw [s.nextAction_idle hagenda, hturn, State.atBoundary_none hwin, hview, hseen]
  · have hn : s.nextAction = (.event e, { s with agenda := rest }) := by unfold State.nextAction; rw [h]
    exact ⟨hn, by rw [step, hn]; rfl⟩

/-! ### Interrupts -/

/-- A priority has three bits (R53). -/
theorem State.irqPriority_le (s : State) (n : Nat) : s.irqPriority n ≤ 7 := by
  unfold State.irqPriority
  split
  · exact Nat.le_of_lt_succ ((regAt s.ipc (n / 4)).extractLsb' (4 * (n % 4)) 3).isLt
  · exact Nat.zero_le 7

/-- Settles O17: the winner is a candidate, and a candidate passes every mask; a boundary enters what its view gives where no
trap stops execution. -/
theorem interruptWinnerPassesEveryMask : Obligations.InterruptWinnerPassesEveryMask := by
  refine ⟨fun s n level h => ?_, fun s during n level hturn hnone h => ?_⟩
  · obtain ⟨htrap, hirq, rfl⟩ := (s.arbitrate_irq n level).mp h
    obtain ⟨-, hc, -⟩ := (s.bestIrq_some 246 n).mp hirq
    obtain ⟨hf, he, hl, hd⟩ := (s.candidate_iff n).mp hc
    have h7 := s.irqPriority_le n
    have heff : s.ipl3 = false ∧ s.gieSeen = true ∧ s.effIpl = s.cpuIpl := by
      unfold State.effIpl at hl ⊢
      split at hl
      · rename_i hor
        have hn8 : ¬ 8 ≤ s.cpuIpl := by omega
        exact ⟨by rw [← Bool.not_eq_true, s.ipl3_iff_cpuIpl]; exact hn8, hor.resolve_left hn8, if_pos hor⟩
      · omega
    obtain ⟨h3, hg, heq⟩ := heff
    refine ⟨s.irqFlag_implemented n hf, hf, he, rfl, by omega, h7, by omega, h3, hg, fun hdisi => ?_, fun t hp => ?_⟩
    · by_contra h6
      exact hd ⟨hdisi, by omega, by omega⟩
    · by_contra hlt
      exact s.bestTrap_none.mp htrap ⟨t, hp, by omega⟩
  · have hstop : ∀ t, ¬ s.sampleGie.Stops t := fun t ht => by
      obtain ⟨hhard, hp, hl, hh⟩ := (s.sampleGie_stops t).mp ht
      rw [hnone t hhard hp hl] at hh; cases hh
    have hat := State.atBoundary_irq (by rw [State.boundaryWinner_of_none _ _ hstop]; exact h)
    have hnext := s.nextAction_enter during hturn (.irq n) level (by rw [hat])
    refine ⟨_, hnext, by rw [step, hnext]; rfl, ?_⟩
    have hm := s.sampleGie.maskView_frame
    have hs := s.sampleGie_frame
    rw [hat]
    simp only
    rw [hm, hs]

/-- Settles O18: what finds the trap of greatest level reads no mask of interrupts. -/
theorem trapsIgnoreInterruptMasks : Obligations.TrapsIgnoreInterruptMasks := by
  intro s t level seen c2 cnt e p h
  obtain ⟨hbest, hl⟩ := (s.arbitrate_trap t level).mp h
  refine (State.arbitrate_trap _ t level).mpr ⟨?_, hl⟩
  rw [← hbest]
  rfl

/-! ### Hard traps -/

/-- Where the view of the masks is a state with the pending traps of the boundary, what is decided on a hard trap pending above
its level is a trap of at least its level. -/
theorem State.boundaryWinner_of_bestTrap (s view : State) (h : Trap) (hlevel : ∀ t, view.trapLevel t = s.trapLevel t)
    (hp : view.trapPending h = true) (hl : view.cpuIpl < view.trapLevel h) :
    ∃ t, s.boundaryWinner view = some (.trap t, s.trapLevel t) ∧ s.trapLevel h ≤ s.trapLevel t := by
  obtain ⟨b, hb⟩ : ∃ b, view.bestTrap = some b := by
    cases hv : view.bestTrap with
    | some b => exact ⟨b, rfl⟩
    | none => exact absurd ⟨h, hp, hl⟩ (view.bestTrap_none.mp hv)
  have hmax : s.trapLevel h ≤ s.trapLevel b := by
    rw [← hlevel, ← hlevel]
    rcases ((view.bestTrap_some b).mp hb).2.2 h hp hl with rfl | hlt <;> omega
  unfold State.boundaryWinner
  split
  · exact ⟨b, by rw [(view.arbitrate_trap b _).mpr ⟨hb, rfl⟩, hlevel], hmax⟩
  · simp only [hb]
    split
    · exact ⟨b, rfl, hmax⟩
    · exact ⟨_, rfl, by omega⟩

theorem State.boundaryWinner_level (s view : State) (t : Trap) (level : Nat) (hlevel : ∀ t, view.trapLevel t = s.trapLevel t)
    (h : s.boundaryWinner view = some (.trap t, level)) : level = s.trapLevel t := by
  by_cases hs : ∃ u, s.Stops u
  · obtain ⟨u, hu⟩ := hs
    obtain ⟨x, hx, -⟩ := s.boundaryWinner_of_stops view u hu
    rw [h] at hx
    injection hx with hx
    injection hx with hx hlev
    injection hx with hx
    rw [hlev, hx]
  · rw [s.boundaryWinner_of_none view (not_exists.mp hs)] at h
    rw [((view.arbitrate_trap t level).mp h).2, hlevel]

/-- A boundary that enters a trap decided on it. -/
theorem State.atBoundary_enter_trap (s : State) (t : Trap) (level : Nat) (h : s.atBoundary.1 = .enter (.trap t) level) :
    s.sampleGie.boundaryWinner s.sampleGie.maskView.1 = some (.trap t, level) := by
  cases hw : s.sampleGie.boundaryWinner s.sampleGie.maskView.1 with
  | none => rw [State.atBoundary_none hw] at h; cases h
  | some w =>
    obtain ⟨src, l⟩ := w
    cases src with
    | irq n => rw [State.atBoundary_irq hw] at h; cases h
    | trap u =>
      rw [State.atBoundary_trap hw] at h
      rcases s.sampleGie.maskView.2.enterOrSkid_action u l with hk | ⟨hk, -⟩ <;> rw [hk] at h <;> cases h
      rfl

/-- What the running CPU's turn does is what its boundary does, with the events that were to come. -/
theorem State.nextAction_boundary (s : State) (during : List (List Event)) (h : s.cpuRuns during) :
    (s.atBoundary.1 = .run [] ∧ s.nextAction = (.run during, { s.atBoundary.2 with agenda := s.agenda.tail }))
      ∨ ∃ src level, s.atBoundary.1 = .enter src level
          ∧ s.nextAction = (.enter src level, { s.atBoundary.2 with agenda := during.flatten.map .event ++ s.agenda.tail }) := by
  rcases s.atBoundary_action with ha | ⟨src, level, ha⟩
  · exact .inl ⟨ha, s.nextAction_run during h ha⟩
  · exact .inr ⟨src, level, ha, s.nextAction_enter during h src level ha⟩

/-- Settles O21: a hard trap that no old level held stops execution whatever the view says, and without the lag the view is
the state itself. -/
theorem hardTrapStopsExecution : Obligations.HardTrapStopsExecution := by
  intro s during h hturn hhard hp hl
  have hp' : s.sampleGie.trapPending h = true := by rw [s.sampleGie_trapPending]; exact hp
  have hc' : s.sampleGie.cpuIpl = s.cpuIpl := by rw [s.sampleGie_frame]; rfl
  refine ⟨fun hlag => ?_, fun t level ha => ?_⟩
  · have hwin : ∃ t, s.sampleGie.boundaryWinner s.sampleGie.maskView.1 = some (.trap t, s.sampleGie.trapLevel t)
        ∧ s.sampleGie.trapLevel h ≤ s.sampleGie.trapLevel t := by
      rcases hlag with hlag | hheld
      · have hview : s.sampleGie.maskView = (s.sampleGie, s.sampleGie) := by
          unfold State.maskView
          rw [if_neg]
          rw [s.sampleGie_frame]; simp [hlag]
        rw [hview]
        exact State.boundaryWinner_of_bestTrap _ _ h (fun _ => rfl) hp' (by rw [hc', s.sampleGie_trapLevel]; exact hl)
      · have hstop : s.Stops h := by
          refine ⟨hhard, hp, hl, ?_⟩
          rw [← Bool.not_eq_true, State.heldByOldIpl, List.any_eq_true]
          rintro ⟨m, hm, hk⟩
          cases m with
          | ipl old held => exact hheld old held hm (List.contains_iff_mem.mp hk)
          | iec x old | ipc x old => cases hk
        obtain ⟨t, hw, hle, -⟩ := s.sampleGie.boundaryWinner_of_stops s.sampleGie.maskView.1 h ((s.sampleGie_stops h).mpr hstop)
        exact ⟨t, hw, hle⟩
    obtain ⟨t, hw, hle⟩ := hwin
    rw [s.sampleGie_trapLevel, s.sampleGie_trapLevel] at hle
    rw [s.sampleGie_trapLevel] at hw
    have hsoft : trapIsSoft t = false := by
      have h13 := mt (s.trapIsSoft_iff h).mpr (by rw [hhard]; decide)
      rw [← Bool.not_eq_true, s.trapIsSoft_iff]; omega
    have hnext := s.nextAction_enter during hturn (.trap t) (s.trapLevel t)
      (by rw [State.atBoundary_trap hw, State.enterOrSkid_hard _ _ _ hsoft])
    exact ⟨t, s.trapLevel t, _, hnext, by rw [step, hnext]; rfl, hle, hsoft⟩
  · have hat : s.atBoundary.1 = .enter (.trap t) level := by
      rcases s.nextAction_boundary during hturn with ⟨-, hn⟩ | ⟨src, l, hat, hn⟩ <;> rw [hn] at ha <;> cases ha
      exact hat
    have hw := s.atBoundary_enter_trap t level hat
    rw [← s.sampleGie_trapPending, ← s.sampleGie_trapLevel]
    exact ⟨State.boundaryWinner_trap _ t level hw, State.boundaryWinner_level _ _ t level s.sampleGie.maskView_trapLevel hw⟩

/-! ### The soft trap skid -/

/-- Where the view gives a soft trap no hard trap stops execution: it would be in the view, and above. -/
theorem State.boundaryWinner_of_soft (s view : State) (t : Trap) (level : Nat) (hsoft : trapIsSoft t = true)
    (hlevel : ∀ u, view.trapLevel u = s.trapLevel u) (hpend : ∀ u, view.trapPending u = s.trapPending u)
    (h : view.arbitrate = some (.trap t, level)) : s.boundaryWinner view = some (.trap t, level) := by
  rw [s.boundaryWinner_of_none view fun u hu => ?_, h]
  obtain ⟨hhard, hp, -, -⟩ := hu
  obtain ⟨-, hl, hmax⟩ := (view.bestTrap_some t).mp ((view.arbitrate_trap t level).mp h).1
  have ht := (s.trapIsSoft_iff t).mp hsoft
  have hu := mt (s.trapIsSoft_iff u).mpr (by rw [hhard]; decide)
  rw [hlevel] at hl
  rcases hmax u (by rw [hpend]; exact hp) (by rw [hlevel]; omega) with rfl | hlt
  · exact hu ht
  · rw [hlevel, hlevel] at hlt; omega

/-- Only a data write to a register touches the skid counters. -/
theorem Effect.skid {A : Reach} {s u : State} (hn : ∀ r, ¬ A.data r) (h : Effect A s u) : u.skid = s.skid := by
  cases h with
  | plain frame pc => rw [frame]
  | corcon c h1 h2 => rfl
  | window frame bits counts => rw [frame]
  | flag n => rw [s.setIrqFlag_frame n]
  | raise c e h => rw [(raiseCause_raised h).rest]
  | write r mask v ha h => exact (State.writeReg_wrote h).skid
  | data r mask v e lag ha h hl => exact absurd ha (hn r)
  | store ea wide v he => rw [State.store_frame]
  | waits groups ha hf => rfl

theorem State.deviceReset_trapPending (s : State) (conflict : Bool) (t : Trap) :
    (s.deviceReset conflict).trapPending t = false := by
  cases t with
  | genericHard => show (0x0000#16).getLsbD 0 = false; decide
  | genericSoft => show ((0x0000#16).extractLsb' 4 3 != 0#3) = false; decide
  | oscillator => show (0x0000#16).getLsbD 1 = false; decide
  | address => show (0x0000#16).getLsbD 3 = false; decide
  | stack => show (0x0000#16).getLsbD 2 = false; decide
  | math => show (0x0000#16).getLsbD 4 = false; decide
  | dmac => show (0x0000#16).getLsbD 5 = false; decide

/-- An instruction keeps the count of a soft trap that stays pending. -/
theorem runNext_skidOf (during : List (List Event)) (s u : State) (t : Trap) (h : runNext during s = .next u)
    (hp : u.trapPending t = true) (hn : ∀ r, ¬ s.writesData (.run during) r) : u.skidOf t = s.skidOf t := by
  have hkeeps {A : Reach} {x : State} (hd : ∀ r, ¬ A.data r) (hx : Ends A (s.begun during) x)
      (hxp : x.trapPending t = true) : x.skidOf t = s.skidOf t := by
    rcases hx with hx | hx
    · exact skidOf_congr (hx.keeps (P := fun y => y.skid = s.skid) (fun _ _ h hy => (h.skid hd).trans hy) rfl) t
    · obtain ⟨y, conflict, rfl⟩ := hx.justReset
      rw [y.deviceReset_trapPending] at hxp; cases hxp
  rcases runNext_ends during s u h with ⟨x, hx, rfl⟩ | ⟨x, hx, rfl⟩
  · have hxp : x.settle.trapPending t = x.trapPending t := by cases t <;> rfl
    have hxs : x.settle.skidOf t = x.skidOf t := by cases t <;> rfl
    rw [hxs]
    exact hkeeps hn hx (hxp.symm.trans hp)
  · have hxp : x.dropCleared.settle.trapPending t = x.trapPending t := by cases t <;> rfl
    have hxs : x.dropCleared.settle.skidOf t = x.dropCleared.skidOf t := by cases t <;> rfl
    rw [hxp] at hp
    rw [hxs, x.dropCleared_skidOf, if_pos hp]
    exact hkeeps hn hx hp

/-- Settles O22: the boundary decides on the soft trap, and enters it or counts one instruction more. -/
theorem softTrapSkidIsBounded : Obligations.SoftTrapSkidIsBounded := by
  intro s during t level hturn hsoft harb
  have hwin := State.boundaryWinner_of_soft s.sampleGie s.sampleGie.maskView.1 t level hsoft
    s.sampleGie.maskView_trapLevel s.sampleGie.maskView_trapPending harb
  have hat := State.atBoundary_trap hwin
  have hskid : s.sampleGie.maskView.2.skidOf t = s.skidOf t :=
    skidOf_congr (by rw [s.sampleGie.maskView_frame, s.sampleGie_frame]) t
  have hcase : s.nextAction.1 = .enter (.trap t) level
      ∨ (s.nextAction.1 = .run during ∧ s.skidOf t < 2 ∧ s.nextAction.2.skidOf t = s.skidOf t + 1) := by
    rcases s.sampleGie.maskView.2.enterOrSkid_action t level with ha | ⟨ha, -, hlt, hcount⟩
    · exact .inl (by rw [s.nextAction_enter during hturn _ level (by rw [hat, ha])])
    · rw [hskid] at hlt hcount
      have hn := s.nextAction_run during hturn (by rw [hat, ha])
      refine .inr ⟨by rw [hn], hlt, ?_⟩
      rw [hn, ← hcount]
      exact skidOf_congr (by rw [hat]) t
  refine ⟨hcase, fun h2 => hcase.resolve_right fun h => by omega, fun u ha hstep hp hn => ?_⟩
  obtain ⟨-, -, hcount⟩ := hcase.resolve_left (by rw [ha]; nofun)
  rw [step, ha] at hstep
  rw [runNext_skidOf during _ u t hstep hp hn, hcount]

end Sys2Proof.Machine
end

section
/-! The invariant of a run (spec/10_state.md, R20, R65, R132, R262): Reset gives it, every effect of an operation keeps its parts, and
the step adds what lies between effects. -/

namespace Sys2Proof.Machine

variable {A : Reach} {s t u : State}

/-! ### The unimplemented bits of INTCON1 to INTCON4 -/

/-- The unimplemented bits of INTCON1 to INTCON4 (R31, R41, R46, R47) are as they were. -/
structure KeepsUnimplemented (s u : State) : Prop where
  intcon1 : u.intcon1 &&& 0x0001#16 = s.intcon1 &&& 0x0001#16
  intcon2 : u.intcon2 &&& 0x1FE0#16 = s.intcon2 &&& 0x1FE0#16
  intcon3 : u.intcon3 &&& 0xFF8F#16 = s.intcon3 &&& 0xFF8F#16
  intcon4 : u.intcon4 &&& 0xFFFE#16 = s.intcon4 &&& 0xFFFE#16

theorem KeepsUnimplemented.refl (s : State) : KeepsUnimplemented s s := ⟨rfl, rfl, rfl, rfl⟩

theorem KeepsUnimplemented.trans (h : KeepsUnimplemented s t) (k : KeepsUnimplemented t u) : KeepsUnimplemented s u :=
  ⟨k.intcon1.trans h.intcon1, k.intcon2.trans h.intcon2, k.intcon3.trans h.intcon3, k.intcon4.trans h.intcon4⟩

/-- Two words agree under a mask when they agree in its bits. -/
theorem and_mask_congr {x y m : Word} (h : ∀ j, m.getLsbD j = true → x.getLsbD j = y.getLsbD j) : x &&& m = y &&& m := by
  apply word_ext
  intro j _
  rw [BitVec.getLsbD_and, BitVec.getLsbD_and]
  cases hm : m.getLsbD j with
  | false => simp
  | true => rw [h j hm]

theorem clear_of_and {a m : Word} (h : a &&& m = 0#16) {j : Nat} (hm : m.getLsbD j = true) : a.getLsbD j = false := by
  have := congrArg (BitVec.getLsbD · j) h
  simpa [hm] using this

theorem or_and_clear (x : Word) {a m : Word} (h : a &&& m = 0#16) : (x ||| a) &&& m = x &&& m :=
  and_mask_congr fun j hj => by rw [BitVec.getLsbD_or, clear_of_and h hj, Bool.or_false]

/-- A software write leaves the bits that are not R/W, where none are R/C. -/
theorem writeBits_and_clear (old mask v : Word) {writable m : Word} (h : writable &&& m = 0#16) :
    writeBits old writable 0#16 mask v &&& m = old &&& m :=
  and_mask_congr fun j hj => by rw [writeBits_getLsbD, clear_of_and h hj]; simp

theorem raiseCause_unimplemented {c : Cause} {e : Earlier} (h : raiseCause c s e = .go u) : KeepsUnimplemented s u := by
  have hard (t : Trap) (h : raiseHard t s e = .go u) : KeepsUnimplemented s u := by
    unfold raiseHard at h
    split at h
    · cases h; exact .refl s
    · split at h <;> cases h
      cases t <;> first | exact .refl s | exact ⟨or_and_clear _ (by decide), rfl, rfl, rfl⟩
                        | exact ⟨rfl, rfl, rfl, or_and_clear _ (by decide)⟩
  cases c with
  | oscillator => exact hard .oscillator h
  | address => exact hard .address h
  | genericHard => exact hard .genericHard h
  | stack | dmac => cases h; exact ⟨or_and_clear _ (by decide), rfl, rfl, rfl⟩
  | math d => cases h; exact ⟨or_and_clear _ (by cases d <;> decide), rfl, rfl, rfl⟩
  | genericSoft d => cases h; exact ⟨rfl, rfl, or_and_clear _ (by cases d <;> decide), rfl⟩

theorem raiseAll_unimplemented {cs : List Cause} {e : Earlier} (h : raiseAll cs s e = .go u) : KeepsUnimplemented s u := by
  induction cs generalizing s with
  | nil => cases h; exact .refl _
  | cons c cs ih =>
    obtain ⟨x, hx, hk⟩ := (Flow.bind_eq_go _ _ _).mp h
    exact (raiseCause_unimplemented hx).trans (ih hk)

theorem State.intcon1Events_frame (s : State) (new : Word) :
    (s.intcon1Events new).2 = { s with draws := (s.intcon1Events new).2.draws } := by
  unfold State.intcon1Events
  simp only
  split
  · split <;> rfl
  · split
    · rfl
    · split <;> rfl

/-- What a software write leaves of the fields that the window of R132 and the invariant read. -/
structure WroteControl (s u : State) : Prop where
  unimplemented : KeepsUnimplemented s u
  window : (s.disiBit = true → s.disicnt ≠ 0#14) → u.disiBit = true → u.disicnt ≠ 0#14
  doLevel : u.doLevel = s.doLevel

/-- A trap event touches none of the window. -/
theorem raiseAll_control {cs : List Cause} {e : Earlier} {x : State} (h : raiseAll cs x e = .go u)
    (hx : WroteControl s x) : WroteControl s u := by
  have hr : u = { x with intcon1 := u.intcon1, intcon3 := u.intcon3, intcon4 := u.intcon4 } := by
    obtain ⟨y, hy, hk | hk⟩ := raiseAll_cases cs x e <;> rw [h] at hk <;> cases hk
    exact hy.rest
  refine ⟨hx.unimplemented.trans (raiseAll_unimplemented h), fun hs => ?_, ?_⟩
  · rw [hr]; exact hx.window hs
  · rw [hr]; exact hx.doLevel

theorem State.writeIntcon1_control {mask v : Word} {e : Earlier} (h : s.writeIntcon1 mask v e = .go u) : WroteControl s u := by
  unfold State.writeIntcon1 at h
  generalize hn : writeBits s.intcon1 0xFFFE#16 0#16 mask v = new at h
  simp only at h
  refine raiseAll_control h ?_
  rw [s.intcon1Events_frame new]
  refine ⟨⟨?_, rfl, rfl, rfl⟩, id, rfl⟩
  rw [← writeBits_and_clear s.intcon1 mask v (writable := 0xFFFE#16) (by decide), hn]
  refine and_mask_congr fun j hj => ?_
  rw [BitVec.getLsbD_and, BitVec.getLsbD_not, BitVec.getLsbD_and,
    clear_of_and (m := 0x0001#16) (a := 0x000A#16) (by decide) hj]
  have hlt : j < 16 := BitVec.lt_of_getLsbD hj
  simp [hlt]

theorem State.writeIntcon2_control {mask v : Word} {e : Earlier} (h : s.writeIntcon2 mask v e = .go u) : WroteControl s u := by
  have hw (l : Lag) : WroteControl s { s with intcon2 := writeBits s.intcon2 0xA01F#16 0#16 mask v, lag := l } := by
    refine ⟨⟨rfl, writeBits_and_clear _ _ _ (by decide), rfl, rfl⟩, fun hs hd => hs ?_, rfl⟩
    have hd : (writeBits s.intcon2 0xA01F#16 0#16 mask v).getLsbD 14 = true := hd
    rw [writeBits_getLsbD, show (0xA01F#16).getLsbD 14 = false by decide, Bool.and_false, if_neg Bool.false_ne_true,
      BitVec.getLsbD_zero] at hd
    simp only [Bool.false_and, Bool.not_false, Bool.and_true] at hd
    exact hd
  unfold State.writeIntcon2 at h
  simp only at h
  split at h
  · exact raiseAll_control h (hw _)
  · cases h; exact hw _

theorem State.writeIntcon4_control {mask v : Word} {e : Earlier} (h : s.writeIntcon4 mask v e = .go u) : WroteControl s u := by
  have hw : writeBits s.intcon4 0x0001#16 0#16 mask v &&& 0xFFFE#16 = s.intcon4 &&& 0xFFFE#16 :=
    writeBits_and_clear _ _ _ (by decide)
  unfold State.writeIntcon4 at h
  simp only at h
  split at h
  · refine raiseAll_control h ⟨⟨rfl, rfl, rfl, ?_⟩, id, rfl⟩
    rw [← hw]
    show (_ &&& _) &&& _ = _
    rw [BitVec.and_assoc]; rfl
  · cases h; exact ⟨⟨rfl, rfl, rfl, hw⟩, id, rfl⟩

theorem State.writeDisicnt_control (s : State) (mask v : Word) : WroteControl s (s.writeDisicnt mask v) := by
  unfold State.writeDisicnt
  simp only
  split
  · refine ⟨⟨rfl, and_mask_congr fun j hj => ?_, rfl, rfl⟩, fun _ h => ?_, rfl⟩
    · rw [State.setDisiBit_intcon2, setBit_getLsbD _ _ _ _ (by omega), if_neg]
      rintro rfl; exact absurd hj (by decide)
    · simpa using h
  · rename_i hd
    exact ⟨⟨rfl, rfl, rfl, rfl⟩, fun _ h => absurd h hd, rfl⟩

theorem State.writeReg_control {r : RegName} {mask v : Word} {e : Earlier} (h : s.writeReg r mask v e = .go u) :
    WroteControl s u := by
  cases r with
  | intcon1 => exact State.writeIntcon1_control h
  | intcon2 =>
    unfold State.writeReg at h
    simp only at h
    split at h
    · cases h
    · exact State.writeIntcon2_control h
  | intcon3 => cases h; exact ⟨⟨rfl, rfl, writeBits_and_clear _ _ _ (by decide), rfl⟩, id, rfl⟩
  | intcon4 => exact State.writeIntcon4_control h
  | disicnt => cases h; exact s.writeDisicnt_control mask v
  | corcon =>
    cases h
    refine ⟨⟨rfl, rfl, rfl, rfl⟩, id, congrArg BitVec.toNat (extract_congr 8 3 fun j h8 h11 => ?_)⟩
    have h3 : j = 8 ∨ j = 9 ∨ j = 10 := by omega
    rw [writeBits_getLsbD]
    rcases h3 with rfl | rfl | rfl <;> simp [corconWritable, corconClearable]
  | sr =>
    unfold State.writeReg at h
    simp only at h
    injection h with h
    split at h <;> subst h <;> exact ⟨⟨rfl, rfl, rfl, rfl⟩, id, rfl⟩
  | _ => cases h; exact ⟨⟨rfl, rfl, rfl, rfl⟩, id, rfl⟩

/-! ### The parts of the invariant that every effect keeps -/

/-- The invariant of a run but for the skid counters and the events that wait. -/
structure State.Core (s : State) : Prop where
  device : s.cfg.wf = true
  memory : Memory.wf s.mem = true
  program : Program.wf s.prog = true
  pc : s.pcAligned
  window : s.disiBit = true → s.disicnt ≠ 0#14
  doLevel : s.doLevel ≤ 4
  intcon1 : s.intcon1 &&& 0x0001#16 = 0#16
  intcon2 : s.intcon2 &&& 0x1FE0#16 = 0#16
  intcon3 : s.intcon3 &&& 0xFF8F#16 = 0#16
  intcon4 : s.intcon4 &&& 0xFFFE#16 = 0#16

theorem State.Core.keeps (hs : s.Core) (hcfg : u.cfg = s.cfg) (hmem : Memory.wf u.mem = true) (hprog : u.prog = s.prog)
    (hpc : u.pcAligned) (hw : u.disiBit = true → u.disicnt ≠ 0#14) (hd : u.doLevel ≤ 4) (hb : KeepsUnimplemented s u) :
    u.Core where
  device := by rw [hcfg]; exact hs.device
  memory := hmem
  program := by rw [hprog]; exact hs.program
  pc := hpc
  window := hw
  doLevel := hd
  intcon1 := hb.intcon1.trans hs.intcon1
  intcon2 := hb.intcon2.trans hs.intcon2
  intcon3 := hb.intcon3.trans hs.intcon3
  intcon4 := hb.intcon4.trans hs.intcon4

theorem State.Core.wrote {r : RegName} {mask v : Word} {e : Earlier} (hs : s.Core) (h : s.writeReg r mask v e = .go u) :
    u.Core := by
  have hw := State.writeReg_wrote h
  have hc := State.writeReg_control h
  exact hs.keeps hw.cpu.cfg (by rw [hw.mem]; exact hs.memory) hw.cpu.prog
    (by unfold State.pcAligned; rw [hw.cpu.pc]; exact hs.pc) (hc.window hs.window) (by rw [hc.doLevel]; exact hs.doLevel)
    hc.unimplemented

theorem Effect.core (hloop : ∀ s : State, State.pcAligned { s with pc := A.loopAt }) (h : Effect A s u) (hs : s.Core) :
    u.Core := by
  cases h with
  | plain frame pc =>
    refine hs.keeps (by rw [frame]) (by rw [frame]; exact hs.memory) (by rw [frame]) ?_ (by rw [frame]; exact hs.window)
      (by rw [frame]; exact hs.doLevel) ⟨by rw [frame], by rw [frame], by rw [frame], by rw [frame]⟩
    rcases pc with hp | hp | hp
    · unfold State.pcAligned; rw [hp]; exact hs.pc
    · exact hp
    · unfold State.pcAligned; rw [hp]; exact hloop s
  | corcon c h1 h2 =>
    exact hs.keeps rfl hs.memory rfl hs.pc hs.window (h2.elim id fun h => h.trans hs.doLevel) ⟨rfl, rfl, rfl, rfl⟩
  | window frame bits counts =>
    refine hs.keeps (by rw [frame]) (by rw [frame]; exact hs.memory) (by rw [frame]) (by rw [frame]; exact hs.pc)
      (counts hs.window) (by rw [frame]; exact hs.doLevel) ⟨by rw [frame], and_mask_congr fun j hj => bits j ?_, by rw [frame], by rw [frame]⟩
    rintro rfl; exact absurd hj (by decide)
  | flag n =>
    rw [s.setIrqFlag_frame n]
    exact hs.keeps rfl hs.memory rfl hs.pc hs.window hs.doLevel ⟨rfl, rfl, rfl, rfl⟩
  | raise c e h =>
    have hr := (raiseCause_raised h).rest
    exact hs.keeps (by rw [hr]) (by rw [hr]; exact hs.memory) (by rw [hr]) (by rw [hr]; exact hs.pc)
      (by rw [hr]; exact hs.window) (by rw [hr]; exact hs.doLevel) (raiseCause_unimplemented h)
  | write r mask v ha h => exact hs.wrote h
  | data r mask v e lag ha h hl =>
    exact (hs.wrote h).keeps rfl (hs.wrote h).memory rfl (hs.wrote h).pc (hs.wrote h).window (hs.wrote h).doLevel ⟨rfl, rfl, rfl, rfl⟩
  | store ea wide v he =>
    have hm := s.store_wf ea wide v hs.memory he
    rw [State.store_frame] at hm ⊢
    exact hs.keeps rfl hm rfl hs.pc hs.window hs.doLevel ⟨rfl, rfl, rfl, rfl⟩
  | waits groups ha hf => exact hs.keeps rfl hs.memory rfl hs.pc hs.window hs.doLevel ⟨rfl, rfl, rfl, rfl⟩

theorem State.deviceReset_core {x y : State} (conflict : Bool) (hx : x.Core) (hcfg : y.cfg = x.cfg) (hmem : y.mem = x.mem)
    (hprog : y.prog = x.prog) : (y.deviceReset conflict).Core where
  device := by show y.cfg.wf = true; rw [hcfg]; exact hx.device
  memory := by show Memory.wf y.mem = true; rw [hmem]; exact hx.memory
  program := by show Program.wf y.prog = true; rw [hprog]; exact hx.program
  pc := y.setPc_aligned y.resetLocation
  window := fun h => absurd h (show ¬ (0x8000#16).getLsbD 14 = true by decide)
  doLevel := show ((0x0020#16).extractLsb' 8 3).toNat ≤ 4 by decide
  intcon1 := show 0x0000#16 &&& 0x0001#16 = 0#16 by decide
  intcon2 := show 0x8000#16 &&& 0x1FE0#16 = 0#16 by decide
  intcon3 := show 0x0000#16 &&& 0xFF8F#16 = 0#16 by decide
  intcon4 := show 0x0000#16 &&& 0xFFFE#16 = 0#16 by decide

theorem Ends.core (hloop : ∀ s : State, State.pcAligned { s with pc := A.loopAt }) (h : Ends A s t) (hs : s.Core) : t.Core :=
  h.keeps (fun _ _ h => h.core hloop) (fun _ _ conflict hx hcfg hmem hprog => State.deviceReset_core conflict hx hcfg hmem hprog) hs

/-! ### The skid counters -/

/-- A trap that is pending stays so when trap events are raised. -/
theorem Raised.trapPending {cs : List Cause} (h : Raised cs s u) (t : Trap) (hp : s.trapPending t = true) :
    u.trapPending t = true := by
  obtain ⟨⟨a, ha⟩, ⟨b, hb⟩, ⟨d, hd⟩⟩ := And.intro h.grow1 (And.intro h.grow3 h.grow4)
  cases t <;> simp only [State.trapPending] at hp ⊢
  case genericHard => rw [hd, BitVec.getLsbD_or, hp]; rfl
  case genericSoft =>
    rw [bne_iff_ne] at hp ⊢
    rw [hb]
    intro hz
    refine hp (BitVec.eq_of_getLsbD_eq fun j hj => ?_)
    have := congrArg (BitVec.getLsbD · j) hz
    simp only [BitVec.getLsbD_extractLsb', BitVec.getLsbD_or, hj, decide_true, Bool.true_and] at this ⊢
    simp only [BitVec.getLsbD_zero, Bool.or_eq_false_iff] at this ⊢
    exact this.1
  all_goals rw [ha, BitVec.getLsbD_or, hp]; rfl

/-- What an effect does to the count of a trap: it keeps it, and the trap's flag where no software write is allowed; or the count
goes with the flag. -/
theorem Effect.skidOf (h : Effect A s u) (t : Trap) :
    (u.skidOf t = s.skidOf t ∧ ((∃ r mask, A.write r mask) ∨ (s.trapPending t = true → u.trapPending t = true)))
      ∨ u.skidOf t = if u.trapPending t then s.skidOf t else 0 := by
  have same (hk : u.skid = s.skid) (h1 : u.intcon1 = s.intcon1) (h3 : u.intcon3 = s.intcon3) (h4 : u.intcon4 = s.intcon4) :
      (u.skidOf t = s.skidOf t ∧ ((∃ r mask, A.write r mask) ∨ (s.trapPending t = true → u.trapPending t = true)))
        ∨ u.skidOf t = if u.trapPending t then s.skidOf t else 0 := by
    refine .inl ⟨skidOf_congr hk t, .inr fun hp => ?_⟩
    rw [← hp]; cases t <;> simp only [State.trapPending, h1, h3, h4]
  cases h with
  | plain frame pc => exact same (by rw [frame]) (by rw [frame]) (by rw [frame]) (by rw [frame])
  | corcon c h1 h2 => exact same rfl rfl rfl rfl
  | window frame bits counts => exact same (by rw [frame]) (by rw [frame]) (by rw [frame]) (by rw [frame])
  | flag n => rw [s.setIrqFlag_frame n] at same ⊢; exact same rfl rfl rfl rfl
  | raise c e h =>
    exact .inl ⟨skidOf_congr (by rw [(raiseCause_raised h).rest]) t, .inr ((raiseCause_raised h).trapPending t)⟩
  | write r mask v ha h => exact .inl ⟨skidOf_congr (State.writeReg_wrote h).skid t, .inl ⟨r, mask, ha⟩⟩
  | @data x r mask v e lag ha h hl =>
    right
    have hk : State.skidOf { x with lag := lag } t = s.skidOf t :=
      skidOf_congr (x := { x with lag := lag }) (State.writeReg_wrote h).skid t
    rw [State.dropCleared_skidOf, State.dropCleared_trapPending, hk]
  | store ea wide v he => rw [State.store_frame] at same ⊢; exact same rfl rfl rfl rfl
  | waits groups ha hf => exact same rfl rfl rfl rfl

/-- The skid counters are at most 2, and not 0 only while their traps are pending (R262). -/
def State.SkidOk (s : State) : Prop := ∀ t, s.skidOf t ≤ 2 ∧ (s.skidOf t ≠ 0 → s.trapPending t = true)

theorem Effect.skidOk (hn : ∀ r mask, ¬ A.write r mask) (h : Effect A s u) (hs : s.SkidOk) : u.SkidOk := by
  intro t
  obtain ⟨hle, hp⟩ := hs t
  rcases h.skidOf t with ⟨hk, ⟨r, mask, hw⟩ | hgrow⟩ | hk
  · exact absurd hw (hn r mask)
  · rw [hk]; exact ⟨hle, fun h => hgrow (hp h)⟩
  · rw [hk]
    split
    · rename_i hpend; exact ⟨hle, fun _ => hpend⟩
    · exact ⟨Nat.zero_le 2, fun h => absurd rfl h⟩

theorem State.deviceReset_skidOf (s : State) (conflict : Bool) (t : Trap) : (s.deviceReset conflict).skidOf t = 0 := by
  cases t <;> rfl

theorem State.deviceReset_skidOk (s : State) (conflict : Bool) : (s.deviceReset conflict).SkidOk := fun t => by
  rw [s.deviceReset_skidOf]; exact ⟨Nat.zero_le 2, fun h => absurd rfl h⟩

theorem Ends.skidOk (hn : ∀ r mask, ¬ A.write r mask) (h : Ends A s t) (hs : s.SkidOk) : t.SkidOk :=
  h.keeps (fun _ _ h => h.skidOk hn) (fun _ y conflict _ _ _ _ => y.deviceReset_skidOk conflict) hs

theorem Ends.skidOf_le (h : Ends A s t) (hs : ∀ t, s.skidOf t ≤ 2) (trap : Trap) : t.skidOf trap ≤ 2 := by
  refine h.keeps (P := fun x => x.skidOf trap ≤ 2) (fun x y he hx => ?_) (fun _ y conflict _ _ _ _ => ?_) (hs trap)
  · rcases he.skidOf trap with ⟨hk, -⟩ | hk
    · rw [hk]; exact hx
    · rw [hk]; split
      · exact hx
      · exact Nat.zero_le 2
  · rw [y.deviceReset_skidOf]; exact Nat.zero_le 2

/-- After the counts of traps that are not pending are dropped, those left are of pending traps. -/
theorem State.dropCleared_skidOk (hs : ∀ t, s.skidOf t ≤ 2) : s.dropCleared.SkidOk := by
  intro t
  rw [s.dropCleared_skidOf, s.dropCleared_trapPending]
  split
  · rename_i hp; exact ⟨hs t, fun _ => hp⟩
  · exact ⟨Nat.zero_le 2, fun h => absurd rfl h⟩

/-- An entry takes the count of the trap it enters back to 0, and leaves the others. -/
theorem State.clearSkidOf_skidOf (s : State) (src : Source) (t : Trap) :
    (s.clearSkidOf src).skidOf t = s.skidOf t ∨ (s.clearSkidOf src).skidOf t = 0 := by
  cases src with
  | irq n => exact .inl rfl
  | trap u => cases u <;> cases t <;> first | exact .inl rfl | exact .inr rfl

/-! ### The events that wait -/

theorem Effect.meanwhile_eq (hn : ¬ A.waits) (h : Effect A s u) : u.meanwhile = s.meanwhile := by
  cases h with
  | plain frame pc => rw [frame]
  | corcon c h1 h2 => rfl
  | window frame bits counts => rw [frame]
  | flag n => rw [s.setIrqFlag_frame n]
  | raise c e h => exact (raiseCause_raised h).keepsCpu.meanwhile
  | write r mask v ha h => exact (State.writeReg_wrote h).cpu.meanwhile
  | data r mask v e lag ha h hl => exact (State.writeReg_wrote h).cpu.meanwhile
  | store ea wide v he => rw [State.store_frame]
  | waits groups ha hf => exact absurd ha hn

theorem Reaches.meanwhile_eq (hn : ¬ A.waits) (h : Reaches A s t) : t.meanwhile = s.meanwhile :=
  h.keeps (P := fun x => x.meanwhile = s.meanwhile) (fun _ _ h hx => (h.meanwhile_eq hn).trans hx) rfl

theorem Ends.meanwhile_eq (hn : ¬ A.waits) (h : Ends A s t) : t.meanwhile = s.meanwhile := by
  rcases h with h | ⟨x, y, conflict, hx, -, -, -, hw, rfl⟩
  · exact Reaches.meanwhile_eq hn h
  · exact (hw.resolve_left hn).trans (Reaches.meanwhile_eq hn hx)

/-! ### The step -/

theorem State.Inv.core (h : s.Inv) : s.Core :=
  ⟨h.device, h.memory, h.program, h.pc, h.window, h.doLevel, h.intcon1, h.intcon2, h.intcon3, h.intcon4⟩

theorem State.Core.inv (h : s.Core) (hskid : s.SkidOk) (hm : s.meanwhile = []) : s.Inv :=
  ⟨h.device, h.memory, h.program, h.pc, h.window, h.doLevel, hskid, h.intcon1, h.intcon2, h.intcon3, h.intcon4, hm⟩

/-- Choosing the next action keeps the invariant. -/
theorem State.Inv.nextAction (h : s.Inv) : s.nextAction.2.Inv := by
  refine State.Core.inv ?_ (s.nextAction_skid h.skid) (by rw [s.nextAction_frame]; exact h.meanwhile)
  rw [s.nextAction_frame]
  exact h.core.keeps rfl h.memory rfl h.pc h.window h.doLevel ⟨rfl, rfl, rfl, rfl⟩

theorem State.otherReach_loopAt (s : State) (a : Action) (x : State) :
    State.pcAligned { x with pc := (s.otherReach a).loopAt } := show (0#24).getLsbD 0 = false ∧ (0#24).toNat < 0x800000 by decide

/-- The entry of an exception keeps the invariant. -/
theorem enterException_inv (src : Source) (level : Nat) (hs : s.Inv) (h : enterException src level s = .next t) : t.Inv := by
  have hloop := s.otherReach_loopAt (.enter src level)
  rcases enterException_ends src level s t h with hr | ⟨p, hp, he⟩
  · have hr : Ends (s.otherReach (.enter src level)) s t := .inr hr
    exact (hr.core hloop hs.core).inv (hr.skidOk (fun _ _ => id) hs.skid) ((hr.meanwhile_eq id).trans hs.meanwhile)
  · have hp : Ends (s.otherReach (.enter src level)) s p := .inl hp
    have hcore := hp.core hloop hs.core
    have hskid := hp.skidOk (fun _ _ => id) hs.skid
    have hf := he.frame
    have hbits : t.intcon2 &&& 0x1FE0#16 = p.intcon2 &&& 0x1FE0#16 := and_mask_congr fun j hj => he.bits j (by
      rintro rfl; exact absurd hj (by decide))
    refine State.Core.inv (hcore.keeps (by rw [hf]) (by rw [hf]; exact hcore.memory) (by rw [hf]) he.pc (he.window hcore.window)
      he.doLevel ⟨by rw [hf], hbits, by rw [hf], by rw [hf]⟩) (fun trap => ?_) ?_
    · obtain ⟨hle, hpend⟩ := hskid trap
      have hpt : t.trapPending trap = p.trapPending trap := by rw [hf]; cases trap <;> rfl
      rw [skidOf_congr he.skid, hpt]
      rcases p.clearSkidOf_skidOf src trap with hk | hk <;> rw [hk]
      · exact ⟨hle, hpend⟩
      · exact ⟨Nat.zero_le 2, fun h => absurd rfl h⟩
    · rw [hf]; exact (hp.meanwhile_eq id).trans hs.meanwhile

/-- Running an instruction keeps the invariant. -/
theorem runNext_inv (during : List (List Event)) (hs : s.Inv) (h : runNext during s = .next t) : t.Inv := by
  have hbegun : (s.begun during).Core := hs.core.keeps rfl hs.memory rfl hs.pc hs.window hs.doLevel ⟨rfl, rfl, rfl, rfl⟩
  have hskid : (s.begun during).SkidOk := hs.skid
  have settle {x : State} (hx : x.Core) (hk : x.SkidOk) : x.settle.Inv :=
    State.Core.inv (hx.keeps rfl hx.memory rfl hx.pc hx.window hx.doLevel ⟨rfl, rfl, rfl, rfl⟩) hk rfl
  have hloop (x : State) : State.pcAligned { x with pc := s.pc } := hs.pc
  rcases runNext_ends during s t h with ⟨x, hx, rfl⟩ | ⟨x, hx, rfl⟩
  · exact settle (hx.core hloop hbegun) (hx.skidOk (fun _ _ => id) hskid)
  · have hc := hx.core hloop hbegun
    exact settle (hc.keeps rfl hc.memory rfl hc.pc hc.window hc.doLevel ⟨rfl, rfl, rfl, rfl⟩)
      (State.dropCleared_skidOk (hx.skidOf_le fun trap => (hskid trap).1))

/-- Settles O11: the parts of the invariant are kept by every effect of the step's operations. -/
theorem stepKeepsInvariant : Obligations.StepKeepsInvariant := by
  intro s t hs h
  have hn := hs.nextAction
  rcases step_ends s t h with hr | ⟨src, level, -, h⟩ | ⟨during, -, h⟩
  · exact (hr.core (State.otherReach_loopAt _ _) hn.core).inv (hr.skidOk (fun _ _ => id) hn.skid)
      ((hr.meanwhile_eq id).trans hn.meanwhile)
  · exact enterException_inv src level hn h
  · exact runNext_inv during hn h

end Sys2Proof.Machine
end

section
/-! Reset and the hard trap conflict (spec/10_state.md section 10, R300, R272). -/

namespace Sys2Proof.Machine

/-! ### Reset -/

theorem reset_sp : State.reset.sp = 0x1000#16 := by
  show ((Vector.replicate 16 0x0000#16).set 15 0x1000#16)[15] = _
  simp

theorem reset_ifs (x : Fin 16) : State.reset.ifs[x] = 0x0000#16 := by
  show (Vector.replicate 16 0x0000#16)[x] = _; simp

theorem reset_iec (x : Fin 16) : State.reset.iec[x] = 0x0000#16 := by
  show (Vector.replicate 16 0x0000#16)[x] = _; simp

theorem reset_ipc (x : Fin 62) : State.reset.ipc[x] = 0x4444#16 := by
  show (Vector.replicate 62 0x4444#16)[x] = _; simp

theorem reset_cpuIpl : State.reset.cpuIpl = 0 := by decide

/-- Settles O1: the fields of the reset state. -/
theorem resetHoldsStatedValues : Obligations.ResetHoldsStatedValues :=
  ⟨rfl, reset_sp, rfl, rfl, rfl, reset_cpuIpl, rfl, rfl, rfl, rfl, reset_ifs, reset_iec, reset_ipc, rfl, rfl, rfl, rfl,
    fun t => by cases t <;> decide⟩

/-- Settles O10: the parts of the invariant at the reset state. -/
theorem invariantHoldsAtReset : Obligations.InvariantHoldsAtReset where
  device := by decide
  memory := reset_mem_wf
  program := rfl
  pc := by unfold State.pcAligned; decide
  window := by decide
  doLevel := by decide
  skid t := by cases t <;> decide
  intcon1 := rfl
  intcon2 := rfl
  intcon3 := rfl
  intcon4 := rfl
  meanwhile := rfl

/-- Settles O2: RESET is the device Reset, whose registers are those of the reset state. -/
theorem resetInstructionResetsDevice : Obligations.ResetInstructionResetsDevice := by
  intro s
  refine ⟨s.deviceReset false, rfl, rfl, fun haux => ?_, reset_sp, rfl, rfl, rfl, reset_cpuIpl, rfl, rfl, rfl, rfl,
    fun x => ⟨reset_ifs x, reset_iec x⟩, reset_ipc, rfl, rfl, rfl, rfl, s.deviceReset_keeps_trapr, rfl, rfl, rfl⟩
  have hloc : s.resetLocation = 0#24 := by unfold State.resetLocation; rw [haux]
  show s.resetLocation &&& 0x7FFFFE#24 = 0x000000#24
  rw [hloc]; rfl

/-! ### The hard trap conflict -/

theorem raiseHard_pending (s : State) (h : Trap) (e : Earlier) (hp : s.trapPending h = true) : raiseHard h s e = .go s := by
  unfold raiseHard; rw [if_pos hp]

theorem raiseHard_conflict (s : State) (h : Trap) (e : Earlier) (hp : s.trapPending h = false) (hc : s.hardConflict h e = true) :
    raiseHard h s e = .cut (s.deviceReset true) := by
  unfold raiseHard; simp [hp, hc]

theorem raiseHard_sets (s : State) (h : Trap) (e : Earlier) (hp : s.trapPending h = false) (hc : s.hardConflict h e = false) :
    raiseHard h s e = .go (s.setHardFlag h) := by
  unfold raiseHard; simp [hp, hc]

/-- Settles O3: the three answers of a hard trap event. -/
theorem hardTrapConflictResets : Obligations.HardTrapConflictResets := by
  intro h s hhard
  refine ⟨raiseHard_pending s h .none, fun hp hc => ?_, fun hp hmax hl => ?_⟩
  · exact ⟨_, raiseHard_conflict s h .none hp ((s.hardConflict_iff h).mpr hc), s.deviceReset_trapr,
      s.deviceReset_justReset true, rfl, rfl⟩
  · have hc : s.hardConflict h = false := by
      rw [← Bool.not_eq_true, s.hardConflict_iff]
      rintro (⟨t, ht, hlt⟩ | hlt | ⟨heq, hsame⟩)
      · have := hmax t ht; omega
      · rcases hl with h1 | ⟨h1, -⟩ <;> omega
      · rcases hl with h1 | ⟨-, h1⟩
        · omega
        · rw [hsame] at h1; cases h1
    rw [raiseHard_sets s h .none hp hc]
    cases h with
    | oscillator | address | genericHard => simp [State.setHardFlag]
    | stack | math | dmac | genericSoft => cases hhard

end Sys2Proof.Machine
end

section
/-! Control flow, power, DISI, divides, shifts and loops (spec/40_interrupt_instructions.md R130 to R134, spec/41_referenced_instructions.md
R150 to R158). -/

namespace Sys2Proof.Machine

/-! ### Trap events of an access -/

theorem raiseAll_one (c : Cause) (s : State) (e : Earlier) : raiseAll [c] s e = raiseCause c s e := by
  show (raiseCause c s e).bind (fun x => .go x) = _
  cases raiseCause c s e <;> rfl

/-- The trap events of an access where none makes a hard trap conflict: they set their flags. -/
theorem raiseAll_access_quiet (cs : List Cause) (s : State) (hc : AccessCauses cs) (e : Earlier)
    (hn : Cause.address ∈ cs → s.hardConflict .address e = false) :
    raiseAll cs s e = .go { s with intcon1 := s.intcon1 ||| accessBits cs } := by
  rcases raiseAll_access cs s hc e with h | ⟨v, -, hk, ha, -⟩
  · exact h
  · rw [hn ha] at hk; cases hk

theorem raiseAddress_quiet (s : State) (h : s.hardConflict .address = false) :
    raiseCause .address s = .go { s with intcon1 := s.intcon1 ||| 0x0008#16 } := by
  rw [← raiseAll_one, raiseAll_access_quiet [.address] s (by simp [AccessCauses]) .none fun _ => h]
  simp [accessBits]

/-! ### Control flow -/

/-- Settles O30: `pc` moves on, or past the top of program space takes a free address. -/
theorem nopAdvancesPc : Obligations.NopAdvancesPc := by
  refine fun s => ⟨fun h => congrArg Host.Outcome.next (s.advance_room 1 h), fun ha h => ?_⟩
  obtain ⟨h0, hlt⟩ := (s.advance_frame 1).2
  exact ⟨(s.advance 1).pc, congrArg Host.Outcome.next (s.advance_wraps 1 ha h), h0, bit23_of_lt _ hlt⟩

/-- The target of a branch that stays in program space (R153). -/
theorem State.pcPlus_target (s : State) (target : PAddr) (d : Int) (hlt : target.toNat < 0x800000)
    (h : (target.toNat : Int) = s.pc.toNat + d) : s.pcPlus d = (target, s) := by
  unfold State.pcPlus
  rw [← h, if_pos ⟨by omega, by omega⟩, Int.toNat_natCast, BitVec.ofNat_toNat, BitVec.setWidth_eq]

theorem State.jump_implemented (s : State) (target : PAddr) (words : Nat) (h0 : target.getLsbD 0 = false)
    (h23 : target.getLsbD 23 = false) (h : s.progImplemented target.toNat = true) :
    s.jump target words = .next { s with pc := target } := by
  unfold State.jump
  rw [if_pos h, s.setPc_of_aligned target h0 h23]

/-- Settles O31: a jump to implemented memory writes `pc`. -/
theorem jumpsReachImplementedTargets : Obligations.JumpsReachImplementedTargets := by
  refine fun s target offset => ⟨fun hwf himpl => ?_, fun ⟨h0, _⟩ hlt htarget himpl => ?_⟩
  · have hwf : (!target.getLsbD 0 && !target.getLsbD 23) = true := hwf
    simp only [Bool.and_eq_true, Bool.not_eq_true'] at hwf
    exact s.jump_implemented target 2 hwf.1 hwf.2 himpl
  · have heven : target.getLsbD 0 = false := by rw [pc_even] at h0 ⊢; omega
    show (s.pcPlus (2 + 2 * offset.toInt)).2.jump (s.pcPlus (2 + 2 * offset.toInt)).1 1 = _
    rw [s.pcPlus_target target _ hlt (by omega)]
    exact s.jump_implemented target 1 heven (bit23_of_lt _ hlt) himpl

/-- A jump to unimplemented memory raises the address error; `pc` is the target or the next address (U15). -/
theorem State.jump_unimplemented (s : State) (target : PAddr) (words : Nat) (hc : s.hardConflict .address = false)
    (himpl : s.progImplemented target.toNat = false) (h0 : target.getLsbD 0 = false) (hlt : target.toNat < 0x800000)
    (hroom : s.roomAfter words) :
    ∃ t, s.jump target words = .next t ∧ t.trapPending .address = true
      ∧ (t.pc = target ∨ t.pc = s.pc + BitVec.ofNat 24 (2 * words))
      ∧ t = { s with pc := t.pc, intcon1 := s.intcon1 ||| 0x0008#16, draws := s.draws + 1 } := by
  unfold State.jump State.badJump
  rw [himpl, if_neg Bool.false_ne_true, raiseAddress_quiet s hc]
  generalize hx : ({ s with intcon1 := s.intcon1 ||| 0x0008#16 } : State) = x
  have hroom' : x.drawBool.2.roomAfter words := by subst hx; exact hroom
  refine ⟨_, rfl, ?_⟩
  rw [State.setPc_of_aligned _ target h0 (bit23_of_lt _ hlt), State.advance_room _ words hroom']
  have hbit : (s.intcon1 ||| 0x0008#16).getLsbD 3 = true := by rw [BitVec.getLsbD_or]; simp
  subst hx
  split
  · exact ⟨hbit, .inl rfl, rfl⟩
  · exact ⟨hbit, .inr rfl, rfl⟩

/-- Settles O32. -/
theorem jumpToUnimplementedRaisesAddressError : Obligations.JumpToUnimplementedRaisesAddressError := by
  refine fun s target offset hc himpl h0 hlt => ⟨s.jump_unimplemented target 2 hc himpl h0 hlt, fun hroom htarget => ?_⟩
  show ∃ t, (s.pcPlus (2 + 2 * offset.toInt)).2.jump (s.pcPlus (2 + 2 * offset.toInt)).1 1 = .next t ∧ _
  rw [s.pcPlus_target target _ hlt (by omega)]
  exact s.jump_unimplemented target 1 hc himpl h0 hlt hroom

/-- Settles O34. -/
theorem pwrsavSelectsMode : Obligations.PwrsavSelectsMode := fun s h =>
  ⟨congrArg Host.Outcome.next (State.advance_room { s with power := .sleep } 1 h),
    congrArg Host.Outcome.next (State.advance_room { s with power := .idle } 1 h)⟩

/-! ### DISI -/

theorem State.setDisiBit_bits (s : State) (b : Bool) (j : Nat) (hj : j ≠ 14) :
    (s.setDisiBit b).intcon2.getLsbD j = s.intcon2.getLsbD j := by
  rw [State.setDisiBit_intcon2, setBit_getLsbD _ _ _ _ (by omega), if_neg hj]

/-- Settles O35. -/
theorem disiLoadsCount : Obligations.DisiLoadsCount := by
  intro s k hroom
  have hx := State.advance_room ({ s with disicnt := k }.setDisiBit (k != 0#14)) 1 hroom
  refine ⟨_, congrArg Host.Outcome.next hx, rfl, ?_, fun j hj => ?_, rfl⟩
  · show ({ s with disicnt := k }.setDisiBit (k != 0#14)).disiBit = true ↔ _
    rw [State.setDisiBit_disiBit, bne_iff_ne]
  · exact State.setDisiBit_bits _ _ j hj

/-- The number a countdown takes off lies between its bounds, and is at least 1. -/
theorem State.drawBetween_bounds (s : State) (lo hi : Nat) :
    lo ≤ (s.drawBetween lo hi).1 ∧ ((s.drawBetween lo hi).1 ≤ hi ∨ (s.drawBetween lo hi).1 = lo)
      ∧ (s.drawBetween lo hi).2 = { s with draws := (s.drawBetween lo hi).2.draws } := by
  unfold State.drawBetween
  split
  · exact ⟨le_refl lo, .inr rfl, rfl⟩
  · have := Nat.mod_lt s.draw.1 (show 0 < hi - lo + 1 by omega)
    exact ⟨Nat.le_add_right _ _, .inl (by show lo + _ ≤ hi; omega), rfl⟩

/-- What a countdown takes off an open window (R134). -/
theorem State.countdown_open (s : State) (lo hi : Nat) (h : s.disiBit = true) :
    ∃ c, 1 ≤ c ∧ lo ≤ c ∧ (c ≤ hi ∨ c = max 1 lo) ∧ (s.countdown lo hi).disicnt.toNat = s.disicnt.toNat - c
      ∧ ((s.countdown lo hi).disiBit = true ↔ c < s.disicnt.toNat) := by
  obtain ⟨hlo, hhi, hframe⟩ := s.drawBetween_bounds (max 1 lo) hi
  have hlt := s.disicnt.isLt
  unfold State.countdown
  rw [if_pos h]
  generalize s.drawBetween (max 1 lo) hi = d at hlo hhi hframe
  have hcnt : d.2.disicnt = s.disicnt := by rw [hframe]
  have hbit : d.2.disiBit = s.disiBit := by rw [hframe]; rfl
  refine ⟨d.1, by omega, by omega, hhi, ?_⟩
  simp only
  split
  · rename_i hle
    rw [hcnt] at hle
    refine ⟨?_, by rw [State.setDisiBit_disiBit]; simp; omega⟩
    show (0#14).toNat = _
    rw [Nat.sub_eq_zero_of_le hle]; rfl
  · rename_i hle
    rw [hcnt] at hle
    refine ⟨?_, iff_of_true (hbit.trans h) (by omega)⟩
    show (BitVec.ofNat 14 (d.2.disicnt.toNat - d.1)).toNat = _
    rw [hcnt, BitVec.toNat_ofNat]
    omega

theorem State.countdown_closed (s : State) (lo hi : Nat) (h : s.disiBit = false) : s.countdown lo hi = s := by
  unfold State.countdown; simp [h]

/-- Settles O36. -/
theorem countdownClosesWindow : Obligations.CountdownClosesWindow := by
  refine ⟨fun s i => ⟨?_, ?_, ?_, fun hdisi hretfie hnop => ?_⟩, fun s lo hi => ⟨s.countdown_closed lo hi, fun h => ?_⟩⟩
  · rintro ⟨k, rfl⟩; rfl
  · rintro rfl; rfl
  · rintro rfl; rfl
  · cases i <;> first | rfl | exact absurd rfl (hdisi _) | exact absurd rfl hretfie | exact absurd rfl hnop
  · obtain ⟨c, h1, hlo, hhi, hcnt, hbit⟩ := s.countdown_open lo hi h
    obtain ⟨hframe, hbits, -⟩ := s.countdown_frame lo hi
    exact ⟨c, h1, hlo, hhi, hcnt, hbit, hbits, hframe⟩

/-- A write to DISICNT of all its bits (R133). -/
theorem State.writeDisicnt_full (s : State) (v : Word) :
    (s.disiBit = true → s.writeDisicnt 0xFFFF#16 v
        = { s with disicnt := v.extractLsb' 0 14 }.setDisiBit (v.extractLsb' 0 14 != 0#14))
      ∧ (s.disiBit = false → s.writeDisicnt 0xFFFF#16 v
        = { s with disicnt := s.drawWord.1.extractLsb' 0 14, draws := s.draws + 1 }) := by
  unfold State.writeDisicnt
  simp only [mergeBits_full]
  exact ⟨fun h => if_pos h, fun h => by simp [h, State.drawWord, State.draw]⟩

/-- Settles O37. -/
theorem disicntWriteCannotOpenWindow : Obligations.DisicntWriteCannotOpenWindow := by
  intro s v hroom
  obtain ⟨hopen, hclosed⟩ := s.writeDisicnt_full v
  have hx : exec (.write .disicnt v) s = .next { s.writeDisicnt 0xFFFF#16 v with pc := s.pc + 2#24 } := by
    refine Flow.thenAdvance_room s _ hroom ?_
    cases h : s.disiBit
    · rw [hclosed h]
    · rw [hopen h]; rfl
  refine ⟨_, hx, ?_⟩
  cases h : s.disiBit
  · rw [hclosed h]
    exact ⟨nofun, fun _ => h, fun _ _ => rfl, rfl⟩
  · rw [hopen h]
    refine ⟨fun _ => ⟨rfl, ?_⟩, nofun, fun j hj => State.setDisiBit_bits _ _ j hj, rfl⟩
    show (State.setDisiBit _ _).disiBit = true ↔ _
    rw [State.setDisiBit_disiBit, bne_iff_ne]

/-! ### Divides and REPEAT -/

/-- Settles O38. -/
theorem repeatBeginsLoop : Obligations.RepeatBeginsLoop := by
  intro s hroom
  have hx := State.advance_room ({ s.draw.2 with rpt := { left := s.draw.1, first := true } }.setRepeatActive true) 1 hroom
  refine ⟨_, congrArg Host.Outcome.next hx, ?_, rfl, fun j hj => ?_, rfl⟩
  · exact State.setRepeatActive_repeatActive _ true
  · show (setBit s.sr 4 true).getLsbD j = _
    rw [setBit_getLsbD _ _ _ _ (by omega), if_neg hj]

/-- Settles O39. -/
theorem divideByZeroRaisesMathError : Obligations.DivideByZeroRaisesMathError := by
  intro s d hroom
  have hraise : raiseAll (if s.firstIteration && s.reg d == 0#16 then [Cause.math .div0] else []) s = .go
      { s with intcon1 := if (s.repeatActive = false ∨ s.rpt.first = true) ∧ s.reg d = 0#16
                          then s.intcon1 ||| 0x0050#16 else s.intcon1 } := by
    have hiff : (s.firstIteration && s.reg d == 0#16) = true
        ↔ (s.repeatActive = false ∨ s.rpt.first = true) ∧ s.reg d = 0#16 := by
      simp [State.firstIteration]
    by_cases h : (s.firstIteration && s.reg d == 0#16) = true
    · rw [if_pos h, if_pos (hiff.mp h)]; rfl
    · rw [if_neg h, if_neg (mt hiff.mpr h)]; rfl
  refine ⟨s.drawWord.1, (BitVec.ofNat 16 (Config.freeNat (s.draws + 1)) : Word), s.draws + 2, ?_⟩
  show (Flow.bind (raiseAll _ s) _).thenAdvance = _
  rw [hraise, Flow.bind_go]
  exact Flow.thenAdvance_room s _ hroom rfl

/-! ### Shifts -/

/-- Math errors set their detail flags and MATHERR, and nothing else. -/
theorem raiseAll_math (cs : List Cause) (s : State) (e : Earlier) (hc : ∀ c ∈ cs, ∃ d, c = .math d) :
    ∃ b, raiseAll cs s e = .go { s with intcon1 := s.intcon1 ||| b }
      ∧ ∀ j, b.getLsbD j = true → ∃ d, Cause.math d ∈ cs ∧ (mathBits d).getLsbD j = true := by
  induction cs generalizing s with
  | nil => exact ⟨0#16, by simp [raiseAll], fun j h => by simp at h⟩
  | cons c cs ih =>
    obtain ⟨d, rfl⟩ := hc c List.mem_cons_self
    obtain ⟨b, hb, hbits⟩ := ih { s with intcon1 := s.intcon1 ||| mathBits d } fun c h => hc c (List.mem_cons_of_mem _ h)
    refine ⟨mathBits d ||| b, ?_, fun j h => ?_⟩
    · show raiseAll cs { s with intcon1 := s.intcon1 ||| mathBits d } e = _
      rw [hb, BitVec.or_assoc]
    · rw [BitVec.getLsbD_or, Bool.or_eq_true] at h
      rcases h with h | h
      · exact ⟨d, List.mem_cons_self, h⟩
      · obtain ⟨d', hmem, hbit⟩ := hbits j h
        exact ⟨d', List.mem_cons_of_mem _ hmem, hbit⟩

/-- The math errors of a legal shift (R164, R266): only a left shift that may carry out makes one, with its enable set and
saturation off. -/
theorem State.mem_shiftCauses {s : State} {acc : AccName} {n : Int} {c : Cause} (h : c ∈ s.shiftCauses acc n) :
    shiftsLeft s.cfg n = true ∧ mayCarryOut (s.acc acc) n.natAbs 31 = true
      ∧ ((c ∈ s.overflowCauses acc ∧ s.saturates31 acc = false) ∨ (c ∈ s.catastrophicCauses acc ∧ s.saturates acc = false)) := by
  have up (h39 : mayCarryOut (s.acc acc) n.natAbs 39 = true) : mayCarryOut (s.acc acc) n.natAbs 31 = true := by
    unfold mayCarryOut at h39 ⊢
    rw [Bool.and_eq_true, bne_iff_ne, bne_iff_ne] at h39 ⊢
    refine ⟨h39.1, fun hz => h39.2 ?_⟩
    rw [show 39 - n.natAbs = (31 - n.natAbs) + (39 - n.natAbs - (31 - n.natAbs)) by omega, BitVec.shiftRight_add, hz,
      BitVec.zero_ushiftRight]
  unfold State.shiftCauses at h
  simp only at h
  split at h
  · rename_i hleft
    rw [List.mem_append] at h
    rcases h with h | h <;> split at h <;> first | cases h | skip
    all_goals
      rename_i hcond
      simp only [Bool.and_eq_true, Bool.not_eq_true'] at hcond
      obtain ⟨⟨hcarry, hsat⟩, -⟩ := hcond
    · exact ⟨hleft, hcarry, .inl ⟨h, hsat⟩⟩
    · exact ⟨hleft, up hcarry, .inr ⟨h, hsat⟩⟩
  · cases h

theorem State.mem_overflowCauses {s : State} {acc : AccName} {c : Cause} (h : c ∈ s.overflowCauses acc) :
    (acc = .a ∧ s.intcon1.getLsbD 10 = true ∧ c = .math .ovA) ∨ (acc = .b ∧ s.intcon1.getLsbD 9 = true ∧ c = .math .ovB) := by
  cases acc <;> simp only [State.overflowCauses] at h <;> split at h
  · exact .inl ⟨rfl, ‹_›, List.mem_singleton.mp h⟩
  · cases h
  · exact .inr ⟨rfl, ‹_›, List.mem_singleton.mp h⟩
  · cases h

theorem State.mem_catastrophicCauses {s : State} {acc : AccName} {c : Cause} (h : c ∈ s.catastrophicCauses acc) :
    s.intcon1.getLsbD 8 = true ∧ ((acc = .a ∧ c = .math .covA) ∨ (acc = .b ∧ c = .math .covB)) := by
  cases acc <;> simp only [State.catastrophicCauses] at h <;> split at h
  · exact ⟨‹_›, .inl ⟨rfl, List.mem_singleton.mp h⟩⟩
  · cases h
  · exact ⟨‹_›, .inr ⟨rfl, List.mem_singleton.mp h⟩⟩
  · cases h

/-- The bits a math error sets: MATHERR and its detail flag (R265). -/
theorem mathBits_bit {d : MathDetail} {j : Nat} (h : (mathBits d).getLsbD j = true) :
    j = 4 ∨ j = (match d with | .ovA => 14 | .ovB => 13 | .covA => 12 | .covB => 11 | .sftac => 7 | .div0 => 6) := by
  have hj : j < 16 := BitVec.lt_of_getLsbD h
  cases d <;> interval_cases j <;> first | exact .inl rfl | exact .inr rfl | exact absurd h (by decide)

/-- The flags a legal shift may set. -/
theorem State.shift_flag {s : State} {acc : AccName} {n : Int} {d : MathDetail} {j : Nat} (hd : Cause.math d ∈ s.shiftCauses acc n)
    (hj : (mathBits d).getLsbD j = true) :
    ((j = 4 ∨ j = 14) ∧ acc = .a ∧ s.intcon1.getLsbD 10 = true ∧ s.saturates31 .a = false)
      ∨ ((j = 4 ∨ j = 13) ∧ acc = .b ∧ s.intcon1.getLsbD 9 = true ∧ s.saturates31 .b = false)
      ∨ ((j = 4 ∨ j = 12) ∧ acc = .a ∧ s.intcon1.getLsbD 8 = true ∧ s.saturates .a = false)
      ∨ ((j = 4 ∨ j = 11) ∧ acc = .b ∧ s.intcon1.getLsbD 8 = true ∧ s.saturates .b = false) := by
  have hb := mathBits_bit hj
  obtain ⟨-, -, ⟨hc, hsat⟩ | ⟨hc, hsat⟩⟩ := State.mem_shiftCauses hd
  · rcases State.mem_overflowCauses hc with ⟨rfl, he, hdd⟩ | ⟨rfl, he, hdd⟩ <;> cases hdd
    · exact .inl ⟨hb, rfl, he, hsat⟩
    · exact .inr (.inl ⟨hb, rfl, he, hsat⟩)
  · obtain ⟨he, ⟨rfl, hdd⟩ | ⟨rfl, hdd⟩⟩ := State.mem_catastrophicCauses hc <;> cases hdd
    · exact .inr (.inr (.inl ⟨hb, rfl, he, hsat⟩))
    · exact .inr (.inr (.inr ⟨hb, rfl, he, hsat⟩))

theorem State.shiftCauses_math {s : State} {acc : AccName} {n : Int} {c : Cause} (h : c ∈ s.shiftCauses acc n) :
    ∃ d, c = .math d := by
  obtain ⟨-, -, ⟨hc, -⟩ | ⟨hc, -⟩⟩ := State.mem_shiftCauses h
  · rcases State.mem_overflowCauses hc with ⟨-, -, rfl⟩ | ⟨-, -, rfl⟩ <;> exact ⟨_, rfl⟩
  · obtain ⟨-, ⟨-, rfl⟩ | ⟨-, rfl⟩⟩ := State.mem_catastrophicCauses hc <;> exact ⟨_, rfl⟩

/-- What a legal shift leaves: its math errors, its accumulator, free status flags. -/
theorem execSftac_legal (s : State) (acc : AccName) (amount : ShiftAmount) (hdsp : s.cfg.hasDsp = true) (hroom : s.roomAfter 1)
    (hlo : -16 ≤ s.shiftAmount amount) (hhi : s.shiftAmount amount ≤ 16) :
    ∃ b t, exec (.sftac acc amount) s = .next t
      ∧ (∀ j, b.getLsbD j = true → ∃ d, Cause.math d ∈ s.shiftCauses acc (s.shiftAmount amount) ∧ (mathBits d).getLsbD j = true)
      ∧ t.intcon1 = s.intcon1 ||| b
      ∧ t.acc acc = s.shiftResult acc (s.shiftAmount amount) ∧ (∀ other, other ≠ acc → t.acc other = s.acc other)
      ∧ (∀ j, statusFlagBits.getLsbD j = false → t.sr.getLsbD j = s.sr.getLsbD j)
      ∧ t = { s with accA := t.accA, accB := t.accB, sr := t.sr, intcon1 := t.intcon1, pc := s.pc + 2#24, draws := t.draws } := by
  generalize hn : s.shiftAmount amount = n at *
  obtain ⟨b, hraise, hbits⟩ := raiseAll_math (s.shiftCauses acc n) { s with draws := s.draws + 3 } .none
    fun _ => State.shiftCauses_math
  refine ⟨b, { (State.setAcc { s with intcon1 := s.intcon1 ||| b, draws := s.draws + 3 } acc (s.shiftResult acc n)).setSrFree
    statusFlagBits with pc := s.pc + 2#24 }, ?_, hbits, by cases acc <;> rfl, ?_, fun other ho => ?_, fun j hj => ?_, ?_⟩
  · show execSftac acc amount s = _
    unfold execSftac
    simp only [hn, hdsp, Bool.not_true, Bool.false_eq_true, if_false]
    rw [if_neg (by omega), hraise, Flow.bind_go]
    exact Flow.thenAdvance_room s _ hroom (by cases acc <;> rfl)
  · cases acc <;> rfl
  · cases acc <;> cases other <;> first | rfl | exact absurd rfl ho
  · refine (mergeBits_keeps _ _ _ _ hj).trans ?_
    cases acc <;> rfl
  · cases acc <;> rfl

/-- Settles O41: a legal shift raises math errors only, writes its accumulator, and leaves the status flags free. -/
theorem legalShiftWritesAccumulator : Obligations.LegalShiftWritesAccumulator := by
  refine fun s acc amount => ⟨fun hdsp hroom hlo hhi => ?_, fun hdsp => ?_⟩
  · obtain ⟨b, t, ht, hbits, hi1, hacc, hother, hsr, hframe⟩ := execSftac_legal s acc amount hdsp hroom hlo hhi
    refine ⟨t, ht, fun hformat => ?_, hother, fun j hj => hsr j ?_, fun j hj => ?_, fun hright => ?_, fun j hj => ?_, hframe⟩
    · rw [hacc, State.shiftResult, hformat]; rfl
    · rcases hj with rfl | rfl | rfl | rfl | rfl <;> decide
    · rw [hi1, BitVec.getLsbD_or, hj]; rfl
    · rw [hi1]
      apply word_ext
      intro j _
      rw [BitVec.getLsbD_or]
      cases hb : b.getLsbD j with
      | false => exact Bool.or_false _
      | true =>
        obtain ⟨d, hd, -⟩ := hbits j hb
        obtain ⟨hl, hcarry, -⟩ := State.mem_shiftCauses hd
        rcases hright with h | h
        · rw [hl] at h; cases h
        · rw [hcarry] at h; cases h
    · rw [hi1, BitVec.getLsbD_or, Bool.or_eq_true] at hj
      refine hj.imp id fun hj => ?_
      obtain ⟨d, hd, hbit⟩ := hbits j hj
      exact State.shift_flag hd hbit
  · show execSftac acc amount s = _
    unfold execSftac
    simp [hdsp]

/-! ### DO -/

/-- Settles O43. -/
theorem doStartsLoop : Obligations.DOStartsLoop := by
  intro s hlt hroom
  have hx : exec .doLoop s = .next { s.startLoop with pc := s.pc + 2#24 } := by
    show execDo s = _
    unfold execDo
    rw [if_neg (by omega)]
    exact Flow.thenAdvance_room s _ hroom rfl
  refine ⟨_, hx, ?_, ?_, fun j hj => ?_, fun j hj => ?_, fun k hk => ?_, rfl⟩
  · refine (State.setDoLevel_doLevel _ _).trans ?_
    omega
  · show (setBit s.sr 9 true).getLsbD 9 = true
    rw [setBit_getLsbD _ _ _ _ (by omega), if_pos rfl]
  · show (setBit s.sr 9 true).getLsbD j = _
    rw [setBit_getLsbD _ _ _ _ (by omega), if_neg hj]
  · show (mergeBits s.corcon 0x0700#16 _).getLsbD j = _
    refine mergeBits_keeps _ _ _ _ ?_
    by_cases h16 : j < 16
    · rcases mem_range16 h16 with h | h | h | h | h | h | h | h | h | h | h | h | h | h | h | h <;> subst h <;>
        first | rfl | omega
    · exact BitVec.getLsbD_of_ge _ j (by omega)
  · show (s.doStack.setIfInBounds s.doLevel s.draw.1)[k] = _
    simp [Ne.symm hk]

end Sys2Proof.Machine
end

section
/-! The exception frame, the returns and the entry sequence (spec/20_memory.md R96, R97, spec/40_interrupt_instructions.md R140, R141,
spec/60_exceptions.md R241 to R252). -/

namespace Sys2Proof.Machine

/-! ### The frame -/

theorem frameB_srl (srl : Byte) (ipl3 : Bool) (ret : PAddr) : (frameB srl ipl3 ret).extractLsb' 8 8 = srl := by
  refine BitVec.eq_of_getLsbD_eq fun j hj => ?_
  simp only [frameB, BitVec.getLsbD_extractLsb', BitVec.getLsbD_append, hj, decide_true, Bool.true_and]
  rw [if_neg (by omega), if_neg (by omega)]
  congr 1; omega

theorem frameB_ipl3 (srl : Byte) (ipl3 : Bool) (ret : PAddr) : (frameB srl ipl3 ret).getLsbD 7 = ipl3 := by
  simp only [frameB, BitVec.getLsbD_append]
  simp

theorem frameA_sfa (ret : PAddr) (sfa : Bool) : (frameA ret sfa).getLsbD 0 = sfa := by
  simp only [frameA, BitVec.getLsbD_append]
  simp

/-- The return address of a frame is the one it was made from (R140). -/
theorem framePc_frame (srl : Byte) (ipl3 sfa : Bool) (ret : PAddr) (h0 : ret.getLsbD 0 = false) (h23 : ret.getLsbD 23 = false) :
    framePc (frameB srl ipl3 ret) (frameA ret sfa) = ret := by
  refine BitVec.eq_of_getLsbD_eq fun j hj => ?_
  simp only [framePc, frameA, frameB, BitVec.getLsbD_append, BitVec.getLsbD_extractLsb']
  interval_cases j <;> simp_all

theorem framePc_aligned (b a : Word) : (framePc b a).getLsbD 0 = false ∧ (framePc b a).getLsbD 23 = false := by
  simp only [framePc, BitVec.getLsbD_append]
  exact ⟨rfl, rfl⟩

/-! ### The returns -/

/-- What RETFIE restores: SRL, IPL3, SFA and `pc`, and nothing else (R140, R141). -/
theorem State.restoreFrame_restores (s : State) (b a : Word) :
    (s.restoreFrame b a).srl = b.extractLsb' 8 8 ∧ (s.restoreFrame b a).ipl3 = b.getLsbD 7
      ∧ (s.restoreFrame b a).sfa = a.getLsbD 0 ∧ (s.restoreFrame b a).pc = framePc b a
      ∧ (∀ j, 8 ≤ j → (s.restoreFrame b a).sr.getLsbD j = s.sr.getLsbD j)
      ∧ (∀ j, j ≠ 2 → j ≠ 3 → (s.restoreFrame b a).corcon.getLsbD j = s.corcon.getLsbD j)
      ∧ s.restoreFrame b a = { s with pc := (s.restoreFrame b a).pc, sr := (s.restoreFrame b a).sr,
                                      corcon := (s.restoreFrame b a).corcon } := by
  have hcor (j : Nat) : (s.restoreFrame b a).corcon.getLsbD j
      = if j = 2 then a.getLsbD 0 else if j = 3 then b.getLsbD 7 else s.corcon.getLsbD j := by
    show (setBit (setBit s.corcon 3 (b.getLsbD 7)) 2 (a.getLsbD 0)).getLsbD j = _
    rw [setBit_getLsbD _ _ _ _ (by omega), setBit_getLsbD _ _ _ _ (by omega)]
  have hsr (j : Nat) : (s.restoreFrame b a).sr.getLsbD j
      = if (0x00FF#16).getLsbD j then ((b.extractLsb' 8 8).zeroExtend 16).getLsbD j else s.sr.getLsbD j :=
    mergeBits_getLsbD s.sr 0x00FF#16 ((b.extractLsb' 8 8).zeroExtend 16) j
  have hmask (j : Nat) : (0x00FF#16).getLsbD j = decide (j < 8) := by
    by_cases hj : j < 16
    · interval_cases j <;> rfl
    · rw [BitVec.getLsbD_of_ge _ j (by omega)]; simp; omega
  refine ⟨BitVec.eq_of_getLsbD_eq fun j hj => ?_, (hcor 3).trans rfl, (hcor 2).trans rfl, ?_, fun j hj => ?_,
    fun j h2 h3 => ?_, rfl⟩
  · have := hsr j
    rw [hmask, decide_eq_true hj, if_pos rfl] at this
    show ((s.restoreFrame b a).sr.extractLsb' 0 8).getLsbD j = _
    rw [BitVec.getLsbD_extractLsb', Nat.zero_add, this, BitVec.getLsbD_setWidth, decide_eq_true hj,
      decide_eq_true (by omega : j < 16), Bool.true_and, Bool.true_and]
  · obtain ⟨h0, h23⟩ := framePc_aligned b a
    exact mask_aligned _ h0 h23
  · rw [hsr j, hmask, decide_eq_false (by omega), if_neg Bool.false_ne_true]
  · rw [hcor j, if_neg h2, if_neg h3]

/-- Settles O27. -/
theorem retfieRestoresFrame : Obligations.RetfieRestoresFrame := by
  refine fun s hready => ⟨fun a b hb ha => ?_, fun hnone => ?_⟩
  · have hx : exec .retfie s = .next ((s.setReg 15 (s.sp - 4#16)).restoreFrame b a) := by
      show (s.popFrame .go _).outcome = _
      rw [s.popFrame_ready _ _ hready rfl, hb, ha]; rfl
    obtain ⟨hsrl, h3, hsfa, hpc, hsr, hcor, hframe⟩ := (s.setReg 15 (s.sp - 4#16)).restoreFrame_restores b a
    refine ⟨_, hx, hsrl, h3, hsfa, hpc, State.sp_setReg _ _, fun i hi => ?_, hsr, hcor, ?_⟩
    · exact State.reg_setReg_other _ _ _ _ hi
    · exact hframe
  · show (s.popFrame .go _).outcome = _
    rw [s.popFrame_ready _ _ hready rfl]
    rcases hnone with h | h <;> rw [h]
    · rfl
    · cases s.readWord (s.sp - 2#16) <;> rfl

/-- What RETURN leaves after its pops: `pc`, and a free SFA. -/
theorem State.returned (s : State) (b a : Word) :
    ∃ t, t = (s.drawBool.2.setSfa s.drawBool.1).setPc (framePc b a) ∧ t.pc = framePc b a
      ∧ (∀ j, j ≠ 2 → t.corcon.getLsbD j = s.corcon.getLsbD j)
      ∧ t = { s with pc := t.pc, corcon := t.corcon, draws := t.draws } := by
  obtain ⟨h0, h23⟩ := framePc_aligned b a
  refine ⟨_, rfl, mask_aligned _ h0 h23, fun j hj => ?_, rfl⟩
  show (setBit s.corcon 2 s.drawBool.1).getLsbD j = _
  rw [setBit_getLsbD _ _ _ _ (by omega), if_neg hj]

/-- A pop without a trap event reads the word below W15. -/
theorem State.pop_quiet (s : State) (h : s.pop.causes = []) :
    s.pop.value = (s.setReg 15 (s.sp - 2#16)).readWord (s.sp - 2#16) ∧ s.pop.st = s.setReg 15 (s.sp - 2#16) := by
  unfold State.pop at h ⊢
  simp only at h ⊢
  split at h
  · exact ⟨rfl, rfl⟩
  · rename_i hr; exact absurd (List.append_eq_nil_iff.mp h).2 hr

/-- Settles O29. -/
theorem returnLoadsPcOnly : Obligations.ReturnLoadsPcOnly := by
  intro s hready
  have hk (x : State) (b a : Word) : ∃ t, (Flow.go ((x.drawBool.2.setSfa x.drawBool.1).setPc (framePc b a))).outcome = .next t
      ∧ t.pc = framePc b a ∧ (∀ j, j ≠ 2 → t.corcon.getLsbD j = x.corcon.getLsbD j)
      ∧ t = { x with pc := t.pc, corcon := t.corcon, draws := t.draws } := by
    obtain ⟨t, ht, hpc, hcor, hframe⟩ := x.returned b a
    exact ⟨t, by rw [← ht]; rfl, hpc, hcor, hframe⟩
  refine ⟨fun hm a b hb ha => ?_, fun hm hnone => ?_, fun b es rest hm hb => ?_⟩
  · obtain ⟨t, ht, hpc, hcor, hframe⟩ := hk (s.setReg 15 (s.sp - 4#16)) b a
    refine ⟨t, ?_, hpc, by rw [hframe]; exact State.sp_setReg _ _, fun i hi => ?_, hcor, by rw [hframe]; rfl⟩
    · show (s.popFrame State.meet _).outcome = _
      rw [s.popFrame_ready _ _ hready (State.meet_idle _ hm), hb, ha]
      exact ht
    · rw [hframe]; exact State.reg_setReg_other _ _ _ _ hi
  · show (s.popFrame State.meet _).outcome = _
    rw [s.popFrame_ready _ _ hready (State.meet_idle _ hm)]
    rcases hnone with h | h <;> rw [h]
    · rfl
    · cases s.readWord (s.sp - 2#16) <;> rfl
  · obtain ⟨h0, h1, h2, -, hr2, -, hl⟩ := hready
    have hpop := s.pop_ready h0 (by omega) h2 hr2 hl
    have hexec : exec .ret s = ((happen es { s.setReg 15 (s.sp - 2#16) with meanwhile := rest }).bind fun s2 =>
        (raiseAll s2.pop.causes s2.pop.st).bind fun s3 => match some b, s2.pop.value with
          | some b, some a => .go ((s3.drawBool.2.setSfa s3.drawBool.1).setPc (framePc b a))
          | _, _ => .fault .readOfUnwrittenMemory).outcome := by
      have hmeet : (s.setReg 15 (s.sp - 2#16)).meet = happen es { s.setReg 15 (s.sp - 2#16) with meanwhile := rest } := by
        unfold State.meet
        rw [show (s.setReg 15 (s.sp - 2#16)).meanwhile = es :: rest from hm]
      show (s.popFrame State.meet _).outcome = _
      unfold State.popFrame
      simp only [hpop, raiseAll, Flow.bind_go, hb, hmeet] <;> rfl
    refine ⟨fun u hu => by rw [hexec, hu]; rfl, fun u a hu hcauses ha hreg => ?_⟩
    obtain ⟨hval, hst⟩ := u.pop_quiet hcauses
    obtain ⟨t, ht, hpc, hcor, hframe⟩ := hk (u.setReg 15 (u.sp - 2#16)) b a
    refine ⟨t, ?_, hpc, by rw [hframe]; exact State.sp_setReg _ _, fun i hi => ?_, hcor, by rw [hframe]; rfl⟩
    · have hread : u.pop.value = some a := by
        rw [hval, ← ha, State.readWord_of_memory u _ hreg,
          State.readWord_of_memory (u.setReg 15 (u.sp - 2#16)) _ hreg]
        rfl
      rw [hexec, hu, Flow.bind_go, hcauses, hst, hread]
      exact ht
    · rw [hframe]; exact State.reg_setReg_other _ _ _ _ hi

/-! ### The entry sequence -/

/-- Memory with the two words of a frame at an even address with room: the words, and every byte below and above as it was. -/
theorem State.writeFrame_memory (s : State) (ea a b : Word) (hm : Memory.wf s.mem = true) (h0 : ea.getLsbD 0 = false)
    (hlt : ea.toNat + 4 < 0x10000) :
    ((s.writeWord ea a).writeWord (ea + 2#16) b).memWord ea = some a
      ∧ ((s.writeWord ea a).writeWord (ea + 2#16) b).memWord (ea + 2#16) = some b
      ∧ ∀ k, k < ea.toNat ∨ ea.toNat + 4 ≤ k →
          ((s.writeWord ea a).writeWord (ea + 2#16) b).readByte k = s.readByte k := by
  have ht : (ea + 2#16).toNat = ea.toNat + 2 := by rw [BitVec.toNat_add]; simp; omega
  have he : (ea + 2#16).getLsbD 0 = false := by rw [word_even] at h0 ⊢; omega
  have hm1 := s.writeWord_wf ea a hm h0
  refine ⟨?_, State.memWord_writeWord_same _ _ _ hm1 he, fun k hk => ?_⟩
  · rw [State.memWord_writeWord_other _ _ _ _ hm1 he h0 fun h => by
      have := congrArg BitVec.toNat h
      omega]
    exact State.memWord_writeWord_same _ _ _ hm h0
  · rw [State.readByte_writeWord _ _ _ _ hm1 he, State.readByte_writeWord _ _ _ _ hm h0, if_neg (by omega), if_neg (by omega),
      if_neg (by omega), if_neg (by omega)]

theorem memWord_of_mem {s t : State} (h : t.mem = s.mem) (ea : Word) : t.memWord ea = s.memWord ea := by
  unfold State.memWord State.readByte; rw [h]

theorem readByte_of_mem {s t : State} (h : t.mem = s.mem) (a : Nat) : t.readByte a = s.readByte a := by
  unfold State.readByte; rw [h]

/-- The fields of INTTREG: VECNUM and ILR (R55, R245). -/
theorem inttreg_fields (level n : Nat) (hn : n < 256) :
    (BitVec.ofNat 16 (256 * level + n)).extractLsb' 0 8 = BitVec.ofNat 8 n
      ∧ (BitVec.ofNat 16 (256 * level + n)).extractLsb' 8 4 = BitVec.ofNat 4 level := by
  constructor <;>
  · apply BitVec.eq_of_toNat_eq
    rw [BitVec.extractLsb'_toNat, BitVec.toNat_ofNat, BitVec.toNat_ofNat, Nat.shiftRight_eq_div_pow]
    omega

/-- What an entry latches in INTTREG (R245). -/
theorem State.latch_inttreg (s : State) (src : Source) (level : Nat) :
    (s.latch src level).inttreg = match src with
      | .trap _ => BitVec.ofNat 16 (256 * level + s.draw.1 % 256)
      | .irq n => BitVec.ofNat 16 (256 * (if s.nstdis && level != 7 && s.drawBool.1 then 7 else level) + n) := by
  cases src with
  | trap t => rfl
  | irq n =>
    simp only [State.latch]
    cases hb : s.nstdis && level != 7 with
    | true => simp only [if_true, Bool.true_and]
    | false => simp only [Bool.false_eq_true, if_false, Bool.false_and]

/-- What an entry writes to IPL3 and to IPL<2:0> (R243, R252). -/
def Source.ipl3 : Source → Bool
  | .trap _ => true
  | .irq _ => false

def State.enteredIpl (s : State) (level : Nat) : Source → Nat
  | .trap _ => (level - 8) % 8
  | .irq _ => if s.nstdis then 7 else level % 8

/-- What an entry with room on the stack leaves, whoever is entered: the frame, `pc` from the vector, the countdown, and what it
leaves alone. -/
structure EntryLeaves (src : Source) (level : Nat) (v : PAddr) (s t : State) : Prop where
  pc : t.pc = v
  sp : t.sp = s.sp + 4#16
  wordA : t.readWord s.sp = some (frameA s.pc s.sfa)
  wordB : t.readWord (s.sp + 2#16) = some (frameB s.srl s.ipl3 s.pc)
  bytes : ∀ a, a < s.sp.toNat ∨ s.sp.toNat + 4 ≤ a → t.readByte a = s.readByte a
  ipl3 : t.ipl3 = src.ipl3
  ipl : t.ipl = s.enteredIpl level src
  inttreg : ∃ x : State, x.nstdis = s.nstdis ∧ t.inttreg = (x.latch src level).inttreg
  sr : ∀ j, j < 4 ∨ 10 ≤ j ∨ j = 8 → t.sr.getLsbD j = s.sr.getLsbD j
  corcon : ∀ j, j ≠ 2 → j ≠ 3 → j < 8 ∨ 11 ≤ j → t.corcon.getLsbD j = s.corcon.getLsbD j
  intcon2 : ∀ j, j ≠ 14 → t.intcon2.getLsbD j = s.intcon2.getLsbD j
  closed : s.disiBit = false → t.disicnt = s.disicnt ∧ t.intcon2 = s.intcon2
  window : s.disiBit = true → ∃ c, 1 ≤ c
    ∧ (s.mstrpr &&& 0x0007#16 = 0#16 → (if s.varLatency then 9 else 13) ≤ c ∧ c ≤ 14)
    ∧ t.disicnt.toNat = s.disicnt.toNat - c ∧ (t.disiBit = true ↔ c < s.disicnt.toNat)
  regs : ∀ i : Fin 16, i ≠ 15 → t.reg i = s.reg i
  lag : t.lag = { gie := none, masks := [] }
  skid : t.skid = (s.clearSkidOf src).skid
  frame : t = { s with w := t.w, pc := t.pc, sr := t.sr, corcon := t.corcon, intcon2 := t.intcon2, inttreg := t.inttreg,
                       disicnt := t.disicnt, doStack := t.doStack, rpt := t.rpt, lag := t.lag, skid := t.skid, mem := t.mem,
                       draws := t.draws }

/-- The bounds on the cycles of an entry (R333 to R335). -/
theorem State.entry_cycles (s : State) {c : Nat} (hlo : s.entryMin ≤ c) (hhi : c ≤ s.entryMax ∨ c = max 1 s.entryMin)
    (h : s.mstrpr &&& 0x0007#16 = 0#16) : (if s.varLatency then 9 else 13) ≤ c ∧ c ≤ 14 := by
  have hm : s.highestMaster = true := by unfold State.highestMaster; rw [h]; rfl
  unfold State.entryMin at hlo hhi
  unfold State.entryMax at hhi
  rw [hm] at hlo hhi
  cases hv : s.varLatency <;> simp only [hv, if_true, Bool.false_eq_true, if_false] at hlo hhi ⊢ <;> omega

theorem enterException_leaves (src : Source) (level : Nat) (s : State) (v : PAddr) (hs : s.Inv) (hr : s.pushReady)
    (hv : s.vectorHolds (vecAddr (s.vectorNumber src)) v) :
    ∃ t, enterException src level s = .next t ∧ EntryLeaves src level v s t := by
  refine ⟨_, enterException_ready src level s v hr hv, ?_⟩
  obtain ⟨h0, -, hlt, -, -, hrA, hrB, -⟩ := hr
  have ht : (s.sp + 2#16).toNat = s.sp.toNat + 2 := by rw [BitVec.toNat_add]; simp; omega
  obtain ⟨hA, hB, hbytes⟩ := (s.setReg 15 (s.sp + 4#16)).writeFrame_memory s.sp (frameA s.pc s.sfa)
    (frameB s.srl s.ipl3 s.pc) hs.memory h0 hlt
  have hw : (((s.setReg 15 (s.sp + 4#16)).writeWord s.sp (frameA s.pc s.sfa)).writeWord (s.sp + 2#16)
      (frameB s.srl s.ipl3 s.pc)) = { s.setReg 15 (s.sp + 4#16) with mem := (((s.setReg 15 (s.sp + 4#16)).writeWord s.sp
      (frameA s.pc s.sfa)).writeWord (s.sp + 2#16) (frameB s.srl s.ipl3 s.pc)).mem } := rfl
  generalize (((s.setReg 15 (s.sp + 4#16)).writeWord s.sp (frameA s.pc s.sfa)).writeWord (s.sp + 2#16)
      (frameB s.srl s.ipl3 s.pc)) = p at *
  obtain ⟨hl, hsr, hco, h3, hi, hd⟩ := p.enterLevel_frame src level
  have hn : (p.setLevel src level).nstdis = s.nstdis := by
    rw [(p.setLevel_frame src level).1, hw]; rfl
  have hskid : (p.clearSkidOf src).skid = (s.clearSkidOf src).skid := State.clearSkidOf_skid p s src (by rw [hw]; rfl)
  rw [hskid] at hl
  have hint : ∃ x : State, x.nstdis = s.nstdis ∧ ((p.setLevel src level).latch src level).inttreg = (x.latch src level).inttreg :=
    ⟨_, hn, rfl⟩
  generalize ((p.setLevel src level).latch src level).inttreg = reg at hl hint
  generalize p.enterLevel src level = q at hl hsr hco h3 hi hd ⊢
  obtain ⟨hc, hbits, -⟩ := State.countdown_frame { q with pc := v } s.entryMin s.entryMax
  have hopen := State.countdown_open { q with pc := v } s.entryMin s.entryMax
  have hclosed := State.countdown_closed { q with pc := v } s.entryMin s.entryMax
  have hdisi : State.disiBit { q with pc := v } = s.disiBit := by
    show q.disiBit = _
    rw [hl, hw]; rfl
  have hcnt : q.disicnt = s.disicnt := by rw [hl, hw]; rfl
  rw [hdisi] at hopen hclosed
  generalize State.countdown { q with pc := v } s.entryMin s.entryMax = t at *
  have hmem : t.mem = p.mem := by rw [hc, hl]
  have hcfg : t.cfg = s.cfg := by rw [hc, hl, hw]; rfl
  have hti (j : Nat) : q.intcon2.getLsbD j = s.intcon2.getLsbD j := by rw [hl, hw]; rfl
  have hwregs : t.w = (s.setReg 15 (s.sp + 4#16)).w := by rw [hc, hl, hw]
  have hregs (i : Fin 16) : t.reg i = (s.setReg 15 (s.sp + 4#16)).reg i := by unfold State.reg; rw [hwregs]
  refine ⟨by rw [hc], ?_, ?_, ?_, fun a ha => ?_, ?_, ?_, ?_, fun j hj => ?_, fun j h2 h3 hj => ?_, fun j hj => ?_,
    fun hd => ?_, fun hd => ?_, fun i hi => ?_, by rw [hc, hl], by rw [hc, hl], by rw [hc, hl, hw]; rfl⟩
  · exact (hregs 15).trans (State.sp_setReg _ _)
  · rw [State.readWord_of_memory _ _ (by rw [State.registerAt_of_cfg s t _ hcfg]; exact hrA), memWord_of_mem hmem]; exact hA
  · rw [State.readWord_of_memory _ _ (by rw [State.registerAt_of_cfg s t _ hcfg, ht]; exact hrB), memWord_of_mem hmem]; exact hB
  · rw [readByte_of_mem hmem, hbytes a ha]; rfl
  · refine (?_ : t.ipl3 = q.ipl3).trans (h3.trans (by cases src <;> rfl))
    unfold State.ipl3; rw [hc]
  · rw [show p.nstdis = s.nstdis by rw [hw]; rfl] at hi
    refine (?_ : t.ipl = q.ipl).trans (hi.trans (by cases src <;> rfl))
    unfold State.ipl; rw [hc]
  · have : t.inttreg = reg := by rw [hc, hl]
    rw [this]; exact hint
  · have : p.sr.getLsbD j = s.sr.getLsbD j := by rw [hw]; rfl
    rw [← this, ← hsr j hj, hc]
  · have : p.corcon.getLsbD j = s.corcon.getLsbD j := by rw [hw]; rfl
    rw [← this, ← hco j h2 h3 hj, hc]
  · rw [hbits j hj]; exact hti j
  · have hq := hclosed hd
    have hi2 : t.intcon2 = q.intcon2 := by rw [hq]
    exact ⟨by rw [hq]; exact hcnt, by rw [hi2]; exact word_ext fun j _ => hti j⟩
  · obtain ⟨c, h1, hlo, hhi, hcount, hbit⟩ := hopen hd
    rw [show State.disicnt { q with pc := v } = s.disicnt from hcnt] at hcount hbit
    exact ⟨c, h1, s.entry_cycles hlo hhi, hcount, hbit⟩
  · rw [hregs i]; exact State.reg_setReg_other _ _ _ _ hi

end Sys2Proof.Machine
end

section
/-! The entry of an interrupt and of a trap, RETFIE after an entry, and stack errors (spec/60_exceptions.md R241 to R252, R264). -/

namespace Sys2Proof.Machine

/-- Settles O23. -/
theorem interruptEntry : Obligations.InterruptEntry := by
  intro s n level v hs hr hv h1 h7
  have hn := n.isLt
  obtain ⟨t, ht, he⟩ := enterException_leaves (.irq n.val) level s v hs hr
    (by rw [show vecAddr (s.vectorNumber (.irq n.val)) = 0x000014 + 2 * n.val by show 0x000004 + 2 * (n.val + 8) = _; omega]; exact hv)
  obtain ⟨x, hx, hreg⟩ := he.inttreg
  rw [State.latch_inttreg] at hreg
  obtain ⟨hvec, hilr⟩ := inttreg_fields (if x.nstdis && level != 7 && x.drawBool.1 then 7 else level) n.val (by omega)
  refine ⟨t, ht, he.pc, he.sp, he.wordA, he.wordB, he.bytes, he.ipl3, ?_, by rw [hreg]; exact hvec, ?_, he.sr, he.corcon,
    he.intcon2, he.closed, he.window, he.regs, he.lag, ?_⟩
  · rw [he.ipl, State.enteredIpl, Nat.mod_eq_of_lt (by omega)]
  · rw [hreg, hilr]
    split
    · rename_i hc
      simp only [Bool.and_eq_true] at hc
      exact .inr ⟨by rw [← hx]; exact hc.1.1, rfl⟩
    · exact .inl rfl
  · have hskid : t.skid = s.skid := he.skid
    have hf := he.frame
    rwa [hskid] at hf

/-! ### Traps -/

/-- No two traps have one vector (R202). -/
theorem State.trapVector_injective (s : State) (hs : s.cfg.wf = true) (t u : Trap) (h : s.trapVector t = s.trapVector u) :
    t = u := by
  unfold Config.wf at hs
  simp only [Bool.and_eq_true, decide_eq_true_eq] at hs
  obtain ⟨⟨⟨⟨hnodup, -⟩, -⟩, -⟩, -⟩ := hs
  have hmap : ([.oscillator, .address, .genericHard, .stack, .math, .dmac, .genericSoft].map s.trapVector).Nodup :=
    hnodup.map (f := Fin.val) Fin.val_injective
  exact List.inj_on_of_nodup_map hmap (by cases t <;> decide) (by cases u <;> decide) h

theorem State.trapVector_lt (s : State) (t : Trap) : s.trapVector t < 8 := by cases t <;> exact Fin.isLt _

theorem State.clearSkidOf_trap (s : State) (t u : Trap) :
    (s.clearSkidOf (.trap t)).skidOf u = if u = t then 0 else s.skidOf u := by
  cases t <;> cases u <;> rfl

/-- Settles O24. -/
theorem trapEntry : Obligations.TrapEntry := by
  intro s tr level v hs hr hv hlevel
  have htl : s.trapLevel tr = level := by rw [hlevel]; cases tr <;> rfl
  obtain ⟨h8, h15⟩ := s.trapLevel_bounds tr
  rw [htl] at h8 h15
  refine ⟨htl, s.trapVector_lt tr, fun u hu => s.trapVector_injective hs.device u tr hu, ?_⟩
  obtain ⟨t, ht, he⟩ := enterException_leaves (.trap tr) level s v hs hr hv
  obtain ⟨x, -, hreg⟩ := he.inttreg
  rw [State.latch_inttreg] at hreg
  obtain ⟨-, hilr⟩ := inttreg_fields level (x.draw.1 % 256) (Nat.mod_lt _ (by omega))
  refine ⟨t, ht, he.pc, he.sp, he.wordA, he.wordB, he.bytes, he.ipl3, ?_, by rw [hreg]; exact hilr, he.sr, he.corcon,
    he.intcon2, he.closed, he.window, he.regs, he.lag, fun u => ?_, he.frame⟩
  · have h3 : t.ipl3 = true := he.ipl3
    have hi : t.ipl = (level - 8) % 8 := he.ipl
    rw [State.cpuIpl, h3, hi, if_pos rfl]
    omega
  · rw [← s.clearSkidOf_trap tr u]
    exact skidOf_congr he.skid u

/-! ### RETFIE after an entry -/

/-- The CPU level lies in SRL and IPL3 (R27). -/
theorem cpuIpl_of_srl {s t : State} (hsrl : t.srl = s.srl) (h3 : t.ipl3 = s.ipl3) : t.cpuIpl = s.cpuIpl := by
  have hipl : t.ipl = s.ipl := by
    refine congrArg BitVec.toNat (extract_congr 5 3 fun j h5 h8 => ?_)
    have := congrArg (BitVec.getLsbD · j) hsrl
    simpa only [State.srl, BitVec.getLsbD_extractLsb', Nat.zero_add, decide_eq_true (show j < 8 by omega), Bool.true_and] using this
  rw [State.cpuIpl, State.cpuIpl, h3, hipl]

/-- Settles O28: the two words RETFIE pops are those the entry pushed. -/
theorem retfieUndoesEntry : Obligations.RetfieUndoesEntry := by
  intro s t u src level hs hr ht hsp hmem hcfg hsplim harmed
  obtain ⟨v, hv⟩ : ∃ v, s.vectorHolds (vecAddr (s.vectorNumber src)) v := by
    rcases enterException_next src level s t ht with h | ⟨-, v, -, hv, -⟩
    · rw [s.pushFrame_ready _ _ hr] at h; cases h
    · exact ⟨v, hv⟩
  obtain ⟨t', ht', he⟩ := enterException_leaves src level s v hs hr hv
  obtain rfl : t = t' := by rw [ht] at ht'; injection ht'
  obtain ⟨h0, h1, hlt, hiA, hiB, hrA, hrB, hl⟩ := hr
  have hcfgs : u.cfg = s.cfg := by rw [hcfg, he.frame]
  have hsps : u.sp = s.sp + 4#16 := hsp.trans he.sp
  have hspn : u.sp.toNat = s.sp.toNat + 4 := by rw [hsps, BitVec.toNat_add]; simp; omega
  have hb : u.sp - 2#16 = s.sp + 2#16 := by rw [hsps]; bv_omega
  have ha : u.sp - 4#16 = s.sp := by rw [hsps]; bv_omega
  have hready : u.popReady := by
    refine ⟨by rw [word_even] at h0 ⊢; omega, by omega, ?_, ?_, ?_, ?_, fun h => ?_⟩
    · rw [State.dataImplemented_of_cfg s u _ hcfgs, hspn]; exact hiB
    · rw [State.dataImplemented_of_cfg s u _ hcfgs, hspn]; exact hiA
    · rw [State.registerAt_of_cfg s u _ hcfgs, hspn]; exact hrB
    · rw [State.registerAt_of_cfg s u _ hcfgs, hspn]; exact hrA
    · rw [hspn, hsplim, he.frame]
      exact hl (by rw [harmed, he.frame] at h; exact h)
  have hword (ea : Word) (hreg : s.registerAt ea.toNat = none) : u.readWord ea = t.readWord ea := by
    have hcfgt : t.cfg = s.cfg := by rw [he.frame]
    rw [State.readWord_of_memory _ _ ((State.registerAt_of_cfg s u _ hcfgs).trans hreg),
      State.readWord_of_memory _ _ ((State.registerAt_of_cfg s t _ hcfgt).trans hreg), memWord_of_mem hmem]
  have hspB : (s.sp + 2#16).toNat = s.sp.toNat + 2 := by rw [BitVec.toNat_add]; simp; omega
  obtain ⟨r, hx, hsrl, h3, hsfa, hpc, hrsp, -, -, -, hframe⟩ := (retfieRestoresFrame u hready).1 _ _
    (by rw [hb, hword _ (by rw [hspB]; exact hrB)]; exact he.wordB) (by rw [ha, hword _ hrA]; exact he.wordA)
  rw [frameB_srl] at hsrl
  rw [frameB_ipl3] at h3
  rw [frameA_sfa] at hsfa
  rw [framePc_frame _ _ _ _ hs.pc.1 (bit23_of_lt _ hs.pc.2)] at hpc
  exact ⟨r, hx, hpc, hsrl, h3, cpuIpl_of_srl hsrl h3, hsfa, hrsp.trans ha, by rw [hframe]; exact hmem⟩

/-! ### Stack errors -/

theorem sp_of_w {s t : State} (h : t.w = s.w) : t.sp = s.sp := by unfold State.sp State.reg; rw [h]

/-- Whether a pop finds its word depends on the device, W15 and memory alone. -/
theorem State.pop_value_none (s : State) : s.pop.value = none ↔ s.readCauses (s.sp - 2#16) true = []
    ∧ s.registerAt (s.sp - 2#16).toNat = none ∧ s.memWord (s.sp - 2#16) = none := by
  have hread : (s.setReg 15 (s.sp - 2#16)).readWord (s.sp - 2#16) = none
      ↔ s.registerAt (s.sp - 2#16).toNat = none ∧ s.memWord (s.sp - 2#16) = none := by
    have hreg : (s.setReg 15 (s.sp - 2#16)).registerAt (s.sp - 2#16).toNat = s.registerAt (s.sp - 2#16).toNat := rfl
    cases hc : s.registerAt (s.sp - 2#16).toNat with
    | none => rw [State.readWord_of_memory _ _ (hreg.trans hc)]; exact ⟨fun h => ⟨rfl, h⟩, fun h => h.2⟩
    | some r => rw [State.readWord_of_register _ _ r (hreg.trans hc)]; simp
  unfold State.pop
  simp only
  split
  · rename_i hc; exact ⟨fun h => ⟨hc, hread.mp h⟩, fun h => hread.mpr h.2⟩
  · rename_i hc; exact ⟨nofun, fun h => absurd h.1 hc⟩

theorem pop_value_congr {s t : State} (hsp : t.sp = s.sp) (hcfg : t.cfg = s.cfg) (hmem : t.mem = s.mem) :
    t.pop.value = none ↔ s.pop.value = none := by
  have hcauses : t.readCauses (s.sp - 2#16) true = s.readCauses (s.sp - 2#16) true := by
    unfold State.readCauses; rw [State.dataImplemented_of_cfg s t _ hcfg]
  rw [State.pop_value_none, State.pop_value_none, hsp, hcauses, State.registerAt_of_cfg s t _ hcfg, memWord_of_mem hmem]

/-- The two pops of a return that nothing comes between, with their words known: a hard trap conflict of an address error, or the
words, the stack error where the first pop lies too low, and W15 four lower. -/
theorem State.popFrame_access (s : State) (between : State → Flow) (k : Word → Word → State → Flow)
    (hb : ∀ u, u.meanwhile = s.meanwhile → between u = .go u) (h1 : s.pop.value ≠ none) (h2 : s.pop.st.pop.value ≠ none) :
    (s.hardConflict .address = true ∧ ∃ x, s.popFrame between k = .cut (State.deviceReset x true))
      ∨ ∃ b a y, s.popFrame between k = k b a y ∧ y.sp = s.sp - 4#16 ∧ y.mem = s.mem
          ∧ (Cause.stack ∈ s.pop.causes → y.trapPending .stack = true) := by
  obtain ⟨hf, hc, -⟩ := s.pop_frame
  have hconf (v : Word) (hv : v.getLsbD 1 = s.intcon1.getLsbD 1) (w : Vector Word 16) (n : Nat) :
      { s with w := w, draws := n, intcon1 := v }.hardConflict .address = s.hardConflict .address :=
    hardConflict_address_intcon1 { s with w := w, draws := n } v .none hv
  unfold State.popFrame
  generalize hw : s.w.set 15 (s.sp - 2#16) = w at hf
  rcases raiseAll_access s.pop.causes s.pop.st hc with h | ⟨v, h, hk, -⟩
  · rw [h, Flow.bind_go, hb _ (by rw [hf]), Flow.bind_go]
    generalize hx : ({ s.pop.st with intcon1 := s.pop.st.intcon1 ||| accessBits s.pop.causes } : State) = x
    have hxf : x = { s with w := w, draws := s.pop.st.draws, intcon1 := s.intcon1 ||| accessBits s.pop.causes } := by
      rw [← hx, hf]
    have hxsp : x.sp = s.sp - 2#16 := by rw [hxf, ← hw]; simp [State.sp, State.reg]
    obtain ⟨hf', hc', -⟩ := x.pop_frame
    have hxv : x.pop.value ≠ none := by
      refine mt (pop_value_congr ?_ ?_ ?_).mp h2
      · rw [hxf, hf]; rfl
      · rw [hxf, hf]
      · rw [hxf, hf]
    have hbit (j : Nat) (hj : j = 1) : (s.intcon1 ||| accessBits s.pop.causes).getLsbD j = s.intcon1.getLsbD j := by
      rw [BitVec.getLsbD_or, accessBits_getLsbD, hj]; simp
    rcases raiseAll_access x.pop.causes x.pop.st hc' with h' | ⟨v, h', hk, -⟩
    · right
      obtain ⟨b, hb'⟩ := Option.ne_none_iff_exists'.mp h1
      obtain ⟨a, ha'⟩ := Option.ne_none_iff_exists'.mp hxv
      refine ⟨b, a, _, by rw [h', Flow.bind_go, hb', ha'], ?_, ?_, fun hmem => ?_⟩
      · show x.pop.st.sp = _
        rw [hf', ← word_sub_four, ← hxsp]; simp [State.sp, State.reg]
      · show x.pop.st.mem = _
        rw [hf', hxf]
      · show (x.pop.st.intcon1 ||| accessBits x.pop.causes).getLsbD 2 = true
        rw [hf', hxf]
        simp [accessBits_getLsbD, hmem]
    · left
      refine ⟨?_, _, by rw [h']; rfl⟩
      rw [hf', hxf] at hk
      rw [← hk]
      exact (hconf _ (hbit 1 rfl) _ _).symm
  · left
    refine ⟨?_, _, by rw [h]; rfl⟩
    rw [← hk, hf]
    exact (hconf s.intcon1 rfl _ _).symm

/-- Settles O26: the pushes write whatever the stack checks say, and the pops of a return read. -/
theorem stackErrorsPerformTheAccess : Obligations.StackErrorsPerformTheAccess := by
  refine ⟨fun s n level v hs h0 h1 hlt hiA hiB hrA hrB harmed hlimit hv hl1 hl7 => ?_, fun s i hi h4 hlow hm hv1 hv2 => ?_⟩
  · have hspB : (s.sp + 2#16).toNat = s.sp.toNat + 2 := by rw [BitVec.toNat_add]; simp; omega
    obtain ⟨-, hpush⟩ := s.pushFrame_memory (frameA s.pc s.sfa) (frameB s.srl s.ipl3 s.pc) h0 hlt hiA hiB hrA hrB
    have hv' : s.vectorHolds (vecAddr (s.vectorNumber (.irq n.val))) v := by
      rw [show vecAddr (s.vectorNumber (.irq n.val)) = 0x000014 + 2 * n.val by show 0x000004 + 2 * (n.val + 8) = _; omega]
      exact hv
    have hstack : Cause.stack ∈ s.frameCauses := by
      refine List.mem_append.mpr (.inr (List.mem_append.mpr (.inl ?_)))
      rw [State.sp_setReg, State.stackCauses, if_pos, List.mem_singleton]
      have : (s.setReg 15 (s.sp + 2#16)).splimArmed = true := harmed
      simp only [this, Bool.true_and, Bool.or_eq_true, decide_eq_true_eq]
      exact .inl (.inr (by rw [hspB]; exact hlimit))
    obtain ⟨hA, hB, -⟩ := (State.setReg { s with intcon1 := s.intcon1 ||| accessBits s.frameCauses } 15
      (s.sp + 4#16)).writeFrame_memory s.sp (frameA s.pc s.sfa) (frameB s.srl s.ipl3 s.pc) hs.memory h0 hlt
    refine ⟨_, enterException_go (.irq n.val) level s _ v hpush hv', ?_⟩
    generalize hp : (((State.setReg { s with intcon1 := s.intcon1 ||| accessBits s.frameCauses } 15
      (s.sp + 4#16)).writeWord s.sp (frameA s.pc s.sfa)).writeWord (s.sp + 2#16) (frameB s.srl s.ipl3 s.pc)) = p at *
    have hpf : p = { s with w := (s.setReg 15 (s.sp + 4#16)).w, intcon1 := s.intcon1 ||| accessBits s.frameCauses, mem := p.mem } := by
      rw [← hp]; rfl
    obtain ⟨hl, -⟩ := p.enterLevel_frame (.irq n.val) level
    generalize ((p.setLevel (.irq n.val) level).latch (.irq n.val) level).inttreg = reg at hl
    generalize p.enterLevel (.irq n.val) level = q at hl ⊢
    obtain ⟨hc, -⟩ := State.countdown_frame { q with pc := v } s.entryMin s.entryMax
    generalize State.countdown { q with pc := v } s.entryMin s.entryMax = t at hc ⊢
    have hcfg : t.cfg = s.cfg := by rw [hc, hl, hpf]
    have hmem : t.mem = p.mem := by rw [hc, hl]
    have hw : t.w = (s.setReg 15 (s.sp + 4#16)).w := by rw [hc, hl, hpf]
    have hi : t.intcon1 = s.intcon1 ||| accessBits s.frameCauses := by rw [hc, hl, hpf]
    refine ⟨?_, ?_, ?_, ?_, by rw [hc]⟩
    · show t.intcon1.getLsbD 2 = true
      rw [hi, BitVec.getLsbD_or, accessBits_getLsbD]; simp [hstack]
    · exact (sp_of_w hw).trans (s.sp_setReg (s.sp + 4#16))
    · rw [State.readWord_of_memory _ _ ((State.registerAt_of_cfg s t _ hcfg).trans hrA), memWord_of_mem hmem]; exact hA
    · rw [State.readWord_of_memory _ _ ((State.registerAt_of_cfg s t _ hcfg).trans (by rw [hspB]; exact hrB)),
        memWord_of_mem hmem]
      exact hB
  · have hstack := s.pop_frame.2.2 hlow (by omega)
    have finish (between : State → Flow) (k : Word → Word → State → Flow)
        (hb : ∀ u, u.meanwhile = s.meanwhile → between u = .go u)
        (hk : ∀ b a y, ∃ t, k b a y = .go t ∧ t.intcon1 = y.intcon1 ∧ t.w = y.w ∧ t.mem = y.mem) :
        ∃ t, (s.popFrame between k).outcome = .next t
          ∧ ((s.hardConflict .address = true ∧ t.justReset ∧ t.rcon.getLsbD 15 = true)
            ∨ (t.trapPending .stack = true ∧ t.sp = s.sp - 4#16 ∧ t.mem = s.mem)) := by
      rcases s.popFrame_access between k hb hv1 hv2 with ⟨hc, x, hx⟩ | ⟨b, a, y, hx, hsp, hmem, hpend⟩
      · exact ⟨_, by rw [hx]; rfl, .inl ⟨hc, x.deviceReset_justReset true, x.deviceReset_trapr⟩⟩
      · obtain ⟨t, ht, h1, hw, hm⟩ := hk b a y
        refine ⟨t, by rw [hx, ht]; rfl, .inr ⟨?_, ?_, hm.trans hmem⟩⟩
        · have := hpend hstack
          show t.intcon1.getLsbD 2 = true
          rw [h1]; exact this
        · rw [← hsp]; exact sp_of_w hw
    rcases hi with rfl | rfl
    · exact finish .go _ (fun _ _ => rfl) fun b a y => ⟨_, rfl, rfl, rfl, rfl⟩
    · exact finish State.meet _ (fun u hu => State.meet_idle u (hu.trans (hm rfl))) fun b a y => ⟨_, rfl, rfl, rfl, rfl⟩

end Sys2Proof.Machine
end

section
/-! Software writes of registers (spec/10_state.md R7, R23 to R63, spec/41_referenced_instructions.md R165): what each stores, and the
hard trap conflicts a write to a trap flag can make. -/

namespace Sys2Proof.Machine

variable {s u : State}

/-! ### What a write stores -/

/-- The R/W bits of a register (R7). -/
def State.writableBits (s : State) : RegName → Word
  | .sr => s.srWritable
  | .corcon => corconWritable
  | .intcon1 => 0xFFFE#16
  | .intcon2 => 0xA01F#16
  | .intcon3 => 0x0070#16
  | .intcon4 => 0x0001#16
  | .ifs x => irqBits s.cfg x.val
  | .iec x => irqBits s.cfg x.val
  | .ipc x => ipcBits s.cfg x.val
  | .inttreg => 0x0000#16
  | .w _ | .splim | .disicnt | .rcon | .osccon | .mstrpr | .dsrPage | .dswPage | .bdtp1 | .bdtp2 | .bdtp3 => 0xFFFF#16

/-- The R/C bits of a register (R7). -/
def clearableBits : RegName → Word
  | .sr => srClearable
  | .corcon => corconClearable
  | _ => 0#16

theorem mergeBits_eq_writeBits (old mask v : Word) : mergeBits old mask v = writeBits old 0xFFFF#16 0#16 mask v := by
  apply word_ext
  intro j hj
  have hf : (0xFFFF#16).getLsbD j = true := by
    rcases mem_range16 hj with h | h | h | h | h | h | h | h | h | h | h | h | h | h | h | h <;> subst h <;> rfl
  rw [mergeBits_getLsbD, writeBits_getLsbD, hf, BitVec.getLsbD_zero]
  simp

theorem writeBits_none (old mask v : Word) : writeBits old 0x0000#16 0#16 mask v = old := by
  apply word_ext
  intro j _
  rw [writeBits_getLsbD, BitVec.getLsbD_zero]
  simp

/-! ### Hard trap conflicts -/

theorem State.trapLevel_of_cfg {s t : State} (h : t.cfg = s.cfg) (x : Trap) : t.trapLevel x = s.trapLevel x := by
  cases x <;> simp only [State.trapLevel, h]

/-- A hard trap conflict rests on the hard traps pending, the CPU level and the device (R272). -/
theorem hardConflict_mono {s z : State} {h : Trap} {e : Earlier} (hh : trapIsSoft h = false) (hcfg : z.cfg = s.cfg)
    (hipl : z.cpuIpl = s.cpuIpl) (hp : ∀ t, trapIsSoft t = false → z.trapPending t = true → s.trapPending t = true)
    (hc : z.hardConflict h e = true) : s.hardConflict h e = true := by
  rw [State.hardConflict_earlier, hipl, hcfg] at hc
  simp only [State.trapLevel_of_cfg hcfg] at hc
  rw [State.hardConflict_earlier]
  refine hc.imp_left ?_
  rintro ⟨t, ht, hpend, hlt⟩
  have h13 := mt (s.trapIsSoft_iff h).mpr (by rw [hh]; decide)
  refine ⟨t, ht, hp t ?_ hpend, hlt⟩
  rw [← Bool.not_eq_true, s.trapIsSoft_iff]
  omega

/-- Nothing is above the generic hard trap. -/
theorem hardConflict_genericHard (s : State) (e : Earlier) :
    s.hardConflict .genericHard e = true ↔ (s.cpuIpl = 15 ∧ s.cfg.sameLevel = .reset) ∨ e.clash = true := by
  have hlt := s.cpuIpl_lt
  rw [State.hardConflict_earlier]
  constructor
  · rintro (⟨t, -, -, h⟩ | h | h | h)
    · have := (s.trapLevel_bounds t).2
      have : (15 : Nat) < s.trapLevel t := h
      omega
    · have : (15 : Nat) < s.cpuIpl := h
      omega
    · exact .inl h
    · exact .inr h
  · rintro (h | h)
    · exact .inr (.inr (.inl h))
    · exact .inr (.inr (.inr h))

/-! ### INTCON1 -/

/-- A flag of INTCON1 that a write takes from 0 to 1. -/
def State.rises (s : State) (new : Word) (j : Nat) : Bool := new.getLsbD j && !s.intcon1.getLsbD j

/-- What a write to INTCON1 stores before the events of the flags it raises (R261). -/
def State.keptIntcon1 (s : State) (new : Word) : Word := new &&& ~~~((new &&& ~~~s.intcon1) &&& 0x000A#16)

/-- The state in which those events occur. -/
def State.beforeFlags (s : State) (new : Word) (n : Nat) : State := { s with intcon1 := s.keptIntcon1 new, draws := n }

theorem State.keptIntcon1_getLsbD (s : State) (new : Word) (j : Nat) :
    (s.keptIntcon1 new).getLsbD j = (new.getLsbD j && !(s.rises new j && (0x000A#16).getLsbD j)) := by
  unfold State.keptIntcon1 State.rises
  by_cases hj : j < 16
  · simp only [BitVec.getLsbD_and, BitVec.getLsbD_not, hj, decide_true, Bool.true_and]
  · simp [BitVec.getLsbD_of_ge _ j (Nat.le_of_not_lt hj)]

/-- A flag that rises is 0 until its event. -/
theorem State.keptIntcon1_rises {s : State} {new : Word} {j : Nat} (hj : (0x000A#16).getLsbD j = true)
    (h : s.rises new j = true) : (s.keptIntcon1 new).getLsbD j = false := by
  rw [s.keptIntcon1_getLsbD, h, hj]; simp

theorem hardFlagBits (j : Nat) : j = 1 ∨ j = 3 ∨ (0x000A#16).getLsbD j = false := by
  by_cases hj : j < 16
  · rcases mem_range16 hj with h | h | h | h | h | h | h | h | h | h | h | h | h | h | h | h <;> subst h <;> decide
  · exact .inr (.inr (BitVec.getLsbD_of_ge _ j (Nat.le_of_not_lt hj)))

/-- With the flags that rise, the whole value written is stored. -/
theorem State.keptIntcon1_or {s : State} {new m : Word} (h1 : m.getLsbD 1 = s.rises new 1) (h3 : m.getLsbD 3 = s.rises new 3)
    (h : m &&& 0x000A#16 = m) : s.keptIntcon1 new ||| m = new := by
  apply word_ext
  intro j _
  have hm : m.getLsbD j = (s.rises new j && (0x000A#16).getLsbD j) := by
    rw [← h, BitVec.getLsbD_and]
    rcases hardFlagBits j with rfl | rfl | hj
    · rw [h1]
    · rw [h3]
    · rw [hj, Bool.and_false, Bool.and_false]
  rw [BitVec.getLsbD_or, s.keptIntcon1_getLsbD, hm]
  unfold State.rises
  cases new.getLsbD j <;> cases s.intcon1.getLsbD j <;> cases (0x000A#16).getLsbD j <;> rfl

/-- The write adds no hard trap flag before its events. -/
theorem State.beforeFlags_hard (s : State) (new : Word) (n : Nat) (t : Trap) (ht : trapIsSoft t = false)
    (hp : (s.beforeFlags new n).trapPending t = true) : s.trapPending t = true := by
  have bit (j : Nat) (hj : (0x000A#16).getLsbD j = true) (h : (s.keptIntcon1 new).getLsbD j = true) :
      s.intcon1.getLsbD j = true := by
    rw [s.keptIntcon1_getLsbD, hj, State.rises] at h
    cases hs : s.intcon1.getLsbD j with
    | true => rfl
    | false => rw [hs] at h; simp at h
  cases t with
  | oscillator => exact bit 1 rfl hp
  | address => exact bit 3 rfl hp
  | genericHard => exact hp
  | stack | math | dmac | genericSoft => cases ht

theorem State.beforeFlags_hardConflict {s : State} {new : Word} {n : Nat} {h : Trap} {e : Earlier} (hh : trapIsSoft h = false)
    (hc : (s.beforeFlags new n).hardConflict h e = true) : s.hardConflict h e = true :=
  hardConflict_mono (z := s.beforeFlags new n) hh rfl rfl (s.beforeFlags_hard new n) hc

/-- The event of a hard trap whose flag is 0. -/
theorem raiseHard_clear (s : State) (h : Trap) (e : Earlier) (hp : s.trapPending h = false) :
    (raiseHard h s e = .go (s.setHardFlag h) ∧ s.hardConflict h e = false)
      ∨ (raiseHard h s e = .cut (s.deviceReset true) ∧ s.hardConflict h e = true) := by
  unfold raiseHard
  rw [hp]
  cases s.hardConflict h e
  · exact .inl ⟨rfl, rfl⟩
  · exact .inr ⟨rfl, rfl⟩

/-- The address error is no conflict only up to its own level. -/
theorem State.cpuIpl_of_no_address {s : State} {e : Earlier} (h : s.hardConflict .address e = false) : s.cpuIpl ≤ 13 := by
  by_contra hgt
  have : s.hardConflict .address e = true := (s.hardConflict_earlier _ _).mpr (.inr (.inl (Nat.lt_of_not_le hgt)))
  rw [this] at h
  cases h

section
variable (s : State) (mask v : Word) (e : Earlier) {new : Word} (hnew : writeBits s.intcon1 0xFFFE#16 0#16 mask v = new)
include hnew

theorem State.writeIntcon1_quiet (h1 : s.rises new 1 = false) (h3 : s.rises new 3 = false) :
    s.writeIntcon1 mask v e = .go { s with intcon1 := new } := by
  have hk := State.keptIntcon1_or (s := s) (new := new) (m := 0#16) h1.symm h3.symm (by decide)
  rw [BitVec.or_zero] at hk
  unfold State.rises at h1 h3
  unfold State.writeIntcon1 State.intcon1Events
  simp only [hnew, h1, h3, Bool.and_false, Bool.false_eq_true, ↓reduceIte]
  exact congrArg (fun x => Flow.go { s with intcon1 := x }) hk

theorem State.writeIntcon1_oscillator (h1 : s.rises new 1 = true) (h3 : s.rises new 3 = false) :
    s.writeIntcon1 mask v e = raiseHard .oscillator (s.beforeFlags new s.draws) e := by
  unfold State.rises at h1 h3
  unfold State.writeIntcon1 State.intcon1Events
  simp only [hnew, h1, h3, Bool.and_false, Bool.false_eq_true, ↓reduceIte]
  exact raiseAll_one _ _ _

theorem State.writeIntcon1_address (h1 : s.rises new 1 = false) (h3 : s.rises new 3 = true) :
    s.writeIntcon1 mask v e = raiseHard .address (s.beforeFlags new s.draws) e := by
  unfold State.rises at h1 h3
  unfold State.writeIntcon1 State.intcon1Events
  simp only [hnew, h1, h3, Bool.false_and, Bool.false_eq_true, ↓reduceIte]
  exact raiseAll_one _ _ _

theorem State.writeIntcon1_both (h1 : s.rises new 1 = true) (h3 : s.rises new 3 = true) :
    ∃ a b, (a = .oscillator ∧ b = .address ∨ a = .address ∧ b = .oscillator)
      ∧ s.writeIntcon1 mask v e
        = (raiseHard a (s.beforeFlags new (s.draws + 1)) e).bind fun x => raiseHard b x e := by
  unfold State.rises at h1 h3
  unfold State.writeIntcon1 State.intcon1Events
  simp only [hnew, h1, h3, Bool.and_self, ↓reduceIte]
  cases s.drawBool.1
  · refine ⟨.address, .oscillator, .inr ⟨rfl, rfl⟩, ?_⟩
    exact congrArg (Flow.bind _) (funext fun x => raiseAll_one .oscillator x e)
  · refine ⟨.oscillator, .address, .inl ⟨rfl, rfl⟩, ?_⟩
    exact congrArg (Flow.bind _) (funext fun x => raiseAll_one .address x e)

/-- Everything a write to INTCON1 can do: the bits are stored; or a hard trap flag that it takes from 0 to 1 makes a hard trap
conflict (R272), in a free order when it raises both (R279). -/
theorem State.writeIntcon1_cases :
    (∃ n, s.writeIntcon1 mask v e = .go { s with intcon1 := new, draws := n } ∧ (s.rises new 3 = true → s.cpuIpl ≤ 13))
      ∨ ∃ z, s.writeIntcon1 mask v e = .cut (State.deviceReset z true)
          ∧ ((s.rises new 1 = true ∧ s.hardConflict .oscillator e = true)
            ∨ (s.rises new 3 = true ∧ (s.hardConflict .address e = true ∨ s.rises new 1 = true))) := by
  cases h1 : s.rises new 1 <;> cases h3 : s.rises new 3
  case false.false => exact .inl ⟨s.draws, s.writeIntcon1_quiet mask v e hnew h1 h3, nofun⟩
  case true.false =>
    have hk := State.keptIntcon1_or (s := s) (new := new) (m := 0x0002#16) h1.symm h3.symm (by decide)
    rw [s.writeIntcon1_oscillator mask v e hnew h1 h3]
    rcases raiseHard_clear (s.beforeFlags new s.draws) .oscillator e (State.keptIntcon1_rises rfl h1) with ⟨h, -⟩ | ⟨h, hc⟩
    · refine .inl ⟨s.draws, h.trans ?_, nofun⟩
      exact congrArg (fun x => Flow.go { s with intcon1 := x }) hk
    · exact .inr ⟨_, h, .inl ⟨rfl, State.beforeFlags_hardConflict rfl hc⟩⟩
  case false.true =>
    have hk := State.keptIntcon1_or (s := s) (new := new) (m := 0x0008#16) h1.symm h3.symm (by decide)
    rw [s.writeIntcon1_address mask v e hnew h1 h3]
    rcases raiseHard_clear (s.beforeFlags new s.draws) .address e (State.keptIntcon1_rises rfl h3) with ⟨h, hc⟩ | ⟨h, hc⟩
    · refine .inl ⟨s.draws, h.trans ?_, fun _ => State.cpuIpl_of_no_address (s := s.beforeFlags new s.draws) hc⟩
      exact congrArg (fun x => Flow.go { s with intcon1 := x }) hk
    · exact .inr ⟨_, h, .inr ⟨rfl, .inl (State.beforeFlags_hardConflict rfl hc)⟩⟩
  case true.true =>
    obtain ⟨a, b, hab, hw⟩ := s.writeIntcon1_both mask v e hnew h1 h3
    have hk := State.keptIntcon1_or (s := s) (new := new) (m := 0x000A#16) h1.symm h3.symm (by decide)
    have hp1 := State.keptIntcon1_rises (s := s) (new := new) (j := 1) rfl h1
    have hp3 := State.keptIntcon1_rises (s := s) (new := new) (j := 3) rfl h3
    have first : (s.beforeFlags new (s.draws + 1)).trapPending a = false := by
      rcases hab with ⟨rfl, -⟩ | ⟨rfl, -⟩
      · exact hp1
      · exact hp3
    have second : ((s.beforeFlags new (s.draws + 1)).setHardFlag a).trapPending b = false := by
      rcases hab with ⟨rfl, rfl⟩ | ⟨rfl, rfl⟩
      · show (s.keptIntcon1 new ||| 0x0002#16).getLsbD 3 = false
        rw [BitVec.getLsbD_or, hp3]; rfl
      · show (s.keptIntcon1 new ||| 0x0008#16).getLsbD 1 = false
        rw [BitVec.getLsbD_or, hp1]; rfl
    have stored : ((s.beforeFlags new (s.draws + 1)).setHardFlag a).setHardFlag b
        = { s with intcon1 := new, draws := s.draws + 1 } := by
      refine Eq.trans ?_ (congrArg (fun x => { s with intcon1 := x, draws := s.draws + 1 }) hk)
      rcases hab with ⟨rfl, rfl⟩ | ⟨rfl, rfl⟩
      · refine congrArg (fun x => { s with intcon1 := x, draws := s.draws + 1 }) ?_
        exact BitVec.or_assoc _ _ _
      · refine congrArg (fun x => { s with intcon1 := x, draws := s.draws + 1 }) ?_
        exact BitVec.or_assoc _ _ _
    rcases raiseHard_clear _ a e first with ⟨h, hc⟩ | ⟨h, -⟩ <;> rw [h] at hw
    · rcases raiseHard_clear _ b e second with ⟨h', hc'⟩ | ⟨h', -⟩ <;> rw [Flow.bind_go, h'] at hw
      · refine .inl ⟨s.draws + 1, by rw [hw, stored], fun _ => ?_⟩
        rcases hab with ⟨rfl, rfl⟩ | ⟨rfl, rfl⟩
        · exact State.cpuIpl_of_no_address (s := (s.beforeFlags new (s.draws + 1)).setHardFlag .oscillator) hc'
        · exact State.cpuIpl_of_no_address (s := s.beforeFlags new (s.draws + 1)) hc
      · exact .inr ⟨_, hw, .inr ⟨rfl, .inr rfl⟩⟩
    · exact .inr ⟨_, hw, .inr ⟨rfl, .inr rfl⟩⟩

end

/-! ### INTCON2 and INTCON4 -/

/-- A flag that is set again. -/
theorem or_flag {x m : Word} {i : Nat} (hm : ∀ j, m.getLsbD j = true → j = i) (hx : x.getLsbD i = true) : x ||| m = x := by
  apply word_ext
  intro j _
  rw [BitVec.getLsbD_or]
  cases h : m.getLsbD j
  · rw [Bool.or_false]
  · rw [hm j h, hx]; rfl

theorem State.setHardFlag_pending {h : Trap} (hh : trapIsSoft h = false) (hp : s.trapPending h = true) : s.setHardFlag h = s := by
  have bit (m : Word) (i : Nat) (hm : m &&& ~~~(1#16 <<< i) = 0#16) (j : Nat) (hj : m.getLsbD j = true) : j = i := by
    by_contra hne
    have h16 : j < 16 := BitVec.lt_of_getLsbD hj
    have := congrArg (fun x : Word => x.getLsbD j) hm
    simp only [BitVec.getLsbD_and, BitVec.getLsbD_not, hj, h16, BitVec.getLsbD_shiftLeft, BitVec.getLsbD_one,
      BitVec.getLsbD_zero, decide_true, Bool.true_and, Bool.not_eq_false'] at this
    simp only [Bool.and_eq_true, Bool.not_eq_true', decide_eq_false_iff_not, decide_eq_true_eq] at this
    omega
  cases h with
  | oscillator => exact congrArg (fun x => { s with intcon1 := x }) (or_flag (bit 0x0002#16 1 (by decide)) hp)
  | address => exact congrArg (fun x => { s with intcon1 := x }) (or_flag (bit 0x0008#16 3 (by decide)) hp)
  | genericHard => exact congrArg (fun x => { s with intcon4 := x }) (or_flag (bit 0x0001#16 0 (by decide)) hp)
  | stack | math | dmac | genericSoft => cases hh

/-- The event of a hard trap that makes no conflict leaves its flag set. -/
theorem raiseHard_quiet {s : State} {h : Trap} {e : Earlier} (hh : trapIsSoft h = false) (hc : s.hardConflict h e = false) :
    raiseHard h s e = .go (s.setHardFlag h) := by
  cases hp : s.trapPending h
  · exact raiseHard_sets s h e hp hc
  · rw [raiseHard_pending s h e hp, State.setHardFlag_pending hh hp]

/-- The event of the generic hard trap resets the device (R272). -/
def State.genericConflict (s : State) (e : Earlier) : Prop :=
  s.trapPending .genericHard = false ∧ s.hardConflict .genericHard e = true

/-- The event of the generic hard trap: SGHT is set, or the device is reset. -/
theorem raiseHard_genericHard (s : State) (e : Earlier) :
    (raiseHard .genericHard s e = .go { s with intcon4 := s.intcon4 ||| 0x0001#16 } ∧ ¬ s.genericConflict e)
      ∨ (raiseHard .genericHard s e = .cut (s.deviceReset true) ∧ s.genericConflict e) := by
  cases hp : s.trapPending .genericHard
  · refine (raiseHard_clear s .genericHard e hp).imp (fun ⟨h, hc⟩ => ⟨h, fun ⟨_, hk⟩ => ?_⟩) fun ⟨h, hc⟩ => ⟨h, hp, hc⟩
    rw [hc] at hk; cases hk
  · refine .inl ⟨(raiseHard_pending _ _ _ hp).trans (congrArg Flow.go (State.setHardFlag_pending rfl hp).symm), fun ⟨hk, _⟩ => ?_⟩
    rw [hp] at hk; cases hk

/-- The old GIE that the next boundary may see after a write of INTCON2 (R224, D8). -/
def State.gieAfter (s : State) (new : Word) : Option Bool :=
  if new.getLsbD 15 = s.gie then s.lag.gie else some (s.lag.gie.getD s.gie)

/-- Everything a write to INTCON2 can do (R44, R224, R272). -/
theorem State.writeIntcon2_cases (s : State) (mask v : Word) (e : Earlier) {new : Word}
    (hnew : writeBits s.intcon2 0xA01F#16 0#16 mask v = new) :
    (s.writeIntcon2 mask v e = .go { s with
        intcon2 := new
        intcon4 := if mask.getLsbD 13 && v.getLsbD 13 then s.intcon4 ||| 0x0001#16 else s.intcon4
        lag := { s.lag with gie := s.gieAfter new } }
        ∧ ¬ ((mask.getLsbD 13 && v.getLsbD 13) = true ∧ s.genericConflict e))
      ∨ ∃ z, s.writeIntcon2 mask v e = .cut (State.deviceReset z true)
          ∧ (mask.getLsbD 13 && v.getLsbD 13) = true ∧ s.genericConflict e := by
  have hw : s.writeIntcon2 mask v e = if mask.getLsbD 13 && v.getLsbD 13
      then raiseAll [.genericHard] { s with intcon2 := new, lag := { s.lag with gie := s.gieAfter new } } e
      else .go { s with intcon2 := new, lag := { s.lag with gie := s.gieAfter new } } := by
    subst hnew; rfl
  rw [hw, raiseAll_one]
  cases mask.getLsbD 13 && v.getLsbD 13
  · exact .inl ⟨rfl, fun ⟨h, _⟩ => nomatch h⟩
  · exact (raiseHard_genericHard _ e).imp (fun ⟨h, hc⟩ => ⟨h, fun ⟨_, hk⟩ => hc hk⟩) fun ⟨h, hc⟩ => ⟨_, h, rfl, hc⟩

/-- Everything a write to INTCON4 can do (R47, R272). -/
theorem State.writeIntcon4_cases (s : State) (mask v : Word) (e : Earlier) {new : Word}
    (hnew : writeBits s.intcon4 0x0001#16 0#16 mask v = new) :
    (s.writeIntcon4 mask v e = .go { s with intcon4 := new } ∧ ¬ (new.getLsbD 0 = true ∧ s.genericConflict e))
      ∨ ∃ z, s.writeIntcon4 mask v e = .cut (State.deviceReset z true) ∧ new.getLsbD 0 = true ∧ s.genericConflict e := by
  have hw : s.writeIntcon4 mask v e = if new.getLsbD 0 && !s.intcon4.getLsbD 0
      then raiseAll [.genericHard] { s with intcon4 := new &&& ~~~0x0001#16 } e else .go { s with intcon4 := new } := by
    subst hnew; rfl
  rw [hw, raiseAll_one]
  by_cases hc : (new.getLsbD 0 && !s.intcon4.getLsbD 0) = true
  · rw [if_pos hc]
    rw [Bool.and_eq_true, Bool.not_eq_true'] at hc
    obtain ⟨h1, h0⟩ := hc
    have same : State.hardConflict { s with intcon4 := new &&& ~~~0x0001#16 } .genericHard e = s.hardConflict .genericHard e :=
      Bool.eq_iff_iff.mpr ((hardConflict_genericHard { s with intcon4 := new &&& ~~~0x0001#16 } e).trans
        (hardConflict_genericHard s e).symm)
    have hp : (new &&& ~~~0x0001#16).getLsbD 0 = false := by simp
    refine (raiseHard_genericHard _ e).imp (fun ⟨h, hk⟩ => ⟨h.trans ?_, fun ⟨_, _, hz⟩ => hk ⟨hp, same.trans hz⟩⟩)
      fun ⟨h, _, hz⟩ => ⟨_, h, h1, h0, same.symm.trans hz⟩
    refine congrArg (fun x => Flow.go { s with intcon4 := x }) ?_
    apply word_ext
    intro j hj
    rcases mem_range16 hj with h | h | h | h | h | h | h | h | h | h | h | h | h | h | h | h <;> subst h <;> simp [h1]
  · rw [if_neg hc]
    refine .inl ⟨rfl, fun ⟨h1, h0, _⟩ => hc ?_⟩
    rw [h1, show s.intcon4.getLsbD 0 = false from h0]; rfl

/-! ### The write of a register -/

/-- A write that goes on stores each bit as its access type says; the free count of a closed window apart (R7, R133). -/
theorem State.writeReg_rawReg {s u : State} {r : RegName} {mask v : Word} {e : Earlier} (h : s.writeReg r mask v e = .go u)
    (hr : r ≠ .disicnt) : u.rawReg r = writeBits (s.rawReg r) (s.writableBits r) (clearableBits r) mask v := by
  cases r with
  | disicnt => exact absurd rfl hr
  | intcon1 =>
    rcases s.writeIntcon1_cases mask v e rfl with ⟨n, hw, -⟩ | ⟨z, hw, -⟩ <;> cases hw.symm.trans h
    rfl
  | intcon2 =>
    unfold State.writeReg at h
    simp only at h
    split at h
    · cases h
    · rcases s.writeIntcon2_cases mask v e rfl with ⟨hw, -⟩ | ⟨z, hw, -⟩ <;> cases hw.symm.trans h
      rfl
  | intcon4 =>
    rcases s.writeIntcon4_cases mask v e rfl with ⟨hw, -⟩ | ⟨z, hw, -⟩ <;> cases hw.symm.trans h
    rfl
  | sr =>
    unfold State.writeReg at h
    simp only at h
    injection h with h
    split at h <;> subst h <;> rfl
  | inttreg => cases h; exact (writeBits_none _ _ _).symm
  | w i => cases h; exact (Vector.getElem_set_self ..).trans (mergeBits_eq_writeBits _ _ _)
  | ifs x => cases h; exact Vector.getElem_set_self ..
  | iec x => cases h; exact Vector.getElem_set_self ..
  | ipc x => cases h; exact Vector.getElem_set_self ..
  | corcon | intcon3 => cases h; rfl
  | splim | rcon | osccon | mstrpr | dsrPage | dswPage | bdtp1 | bdtp2 | bdtp3 =>
    cases h; exact mergeBits_eq_writeBits _ _ _

end Sys2Proof.Machine
end

section
/-! The registers as software reads and writes them whole (spec/41_referenced_instructions.md R165). -/

namespace Sys2Proof.Machine

/-! ### Reading -/

theorem irqBits_getLsbD (c : Config) (x j : Nat) (hj : j < 16) (hx : x < 16) :
    (irqBits c x).getLsbD j = c.irqImpl.getLsbD (16 * x + j) := by
  have : 16 * x + j < 256 := by omega
  unfold irqBits
  simp [hj, this]

theorem ipcNibble_getLsbD (c : Config) (x k j : Nat) (hj : j < 16) :
    (ipcNibble c x k).getLsbD j = (c.irqImpl.getLsbD (4 * x + k) && decide (4 * k ≤ j ∧ j < 4 * k + 3)) := by
  have h7 (i : Nat) : (7#16).getLsbD i = decide (i < 3) := by
    by_cases hi : i < 16
    · rcases mem_range16 hi with h | h | h | h | h | h | h | h | h | h | h | h | h | h | h | h <;> subst h <;> rfl
    · rw [BitVec.getLsbD_of_ge _ _ (Nat.le_of_not_lt hi), decide_eq_false (by omega)]
  unfold ipcNibble
  split
  next h =>
    rw [BitVec.getLsbD_shiftLeft, h7, h, Bool.true_and]
    rw [decide_eq_true hj, Bool.true_and, ← decide_not, ← Bool.decide_and, decide_eq_decide]
    omega
  next h => rw [Bool.not_eq_true] at h; rw [h, BitVec.getLsbD_zero, Bool.false_and]

theorem ipcBits_getLsbD (c : Config) (x j : Nat) (hj : j < 16) :
    (ipcBits c x).getLsbD j = true ↔ j % 4 ≠ 3 ∧ c.irqImpl.getLsbD (4 * x + j / 4) = true := by
  unfold ipcBits
  simp only [BitVec.getLsbD_or, ipcNibble_getLsbD _ _ _ _ hj, Bool.or_eq_true, Bool.and_eq_true, decide_eq_true_eq]
  constructor
  · have at' {k : Nat} (h : 4 * k ≤ j ∧ j < 4 * k + 3) (hb : c.irqImpl.getLsbD (4 * x + k) = true) :
        j % 4 ≠ 3 ∧ c.irqImpl.getLsbD (4 * x + j / 4) = true := by
      have hk : j / 4 = k := by omega
      exact ⟨by omega, by rw [hk]; exact hb⟩
    rintro (((⟨hb, h⟩ | ⟨hb, h⟩) | ⟨hb, h⟩) | ⟨hb, h⟩) <;> exact at' h hb
  · rintro ⟨h3, hb⟩
    have hk : j / 4 = 0 ∨ j / 4 = 1 ∨ j / 4 = 2 ∨ j / 4 = 3 := by omega
    rcases hk with hk | hk | hk | hk <;> rw [hk] at hb
    · exact .inl (.inl (.inl ⟨hb, by omega⟩))
    · exact .inl (.inl (.inr ⟨hb, by omega⟩))
    · exact .inl (.inr ⟨hb, by omega⟩)
    · exact .inr ⟨hb, by omega⟩

/-- Settles O47: the mask is that of the implemented bits. -/
theorem readHasNoSideEffect : Obligations.ReadHasNoSideEffect := by
  intro s r h
  refine ⟨implementedBits s.cfg r, Flow.thenAdvance_room s _ h rfl, ?_⟩
  cases r with
  | ifs x | iec x => exact fun j hj => irqBits_getLsbD _ _ _ hj x.isLt
  | ipc x => exact fun j hj => ipcBits_getLsbD _ _ _ hj
  | _ => rfl

/-! ### SR and CORCON -/

/-- What a write to SR leaves for the next boundary (R231). -/
theorem State.writeReg_sr (s : State) (mask v : Word) (e : Earlier) : s.writeReg .sr mask v e = .go { s with
    sr := writeBits s.sr s.srWritable srClearable mask v
    lag := { s.lag with masks := if mask &&& s.srWritable &&& 0x00E0#16 = 0#16 then s.lag.masks
                                 else .ipl s.sr s.hardHeld :: s.lag.masks } } := by
  unfold State.writeReg
  by_cases h : mask &&& s.srWritable &&& 0x00E0#16 = 0#16
  · simp only [h, ↓reduceIte]
  · simp only [h, ↓reduceIte]; rfl

theorem fullMask_getLsbD {j : Nat} (hj : j < 16) : (0xFFFF#16).getLsbD j = true := by
  rcases mem_range16 hj with h | h | h | h | h | h | h | h | h | h | h | h | h | h | h | h <;> subst h <;> rfl

/-- The bits a write of a whole register leaves. -/
theorem writeBits_full_getLsbD (old rw rc v : Word) {j : Nat} (hj : j < 16) :
    (writeBits old rw rc 0xFFFF#16 v).getLsbD j
      = ((if rw.getLsbD j then v.getLsbD j else old.getLsbD j) && !(rc.getLsbD j && !v.getLsbD j)) := by
  rw [writeBits_getLsbD, fullMask_getLsbD hj, Bool.true_and, Bool.and_true]

/-- A bit that no write can change. -/
theorem writeBits_getLsbD_kept {old rw rc mask v : Word} {j : Nat}
    (h : mask.getLsbD j = false ∨ (rw.getLsbD j = false ∧ rc.getLsbD j = false)) :
    (writeBits old rw rc mask v).getLsbD j = old.getLsbD j := by
  rw [writeBits_getLsbD]
  rcases h with h | ⟨h, h'⟩
  · rw [h]; simp
  · rw [h, h']; simp

/-- A bit that takes what is written. -/
theorem writeBits_getLsbD_stored {old rw rc mask v : Word} {j : Nat} (hm : mask.getLsbD j = true) (hw : rw.getLsbD j = true)
    (hc : rc.getLsbD j = false) : (writeBits old rw rc mask v).getLsbD j = v.getLsbD j := by
  rw [writeBits_getLsbD, hm, hw, hc]; simp

/-- A bit that a write can only clear. -/
theorem writeBits_getLsbD_cleared {old rw rc mask v : Word} {j : Nat} (hm : mask.getLsbD j = true) (hw : rw.getLsbD j = false)
    (hc : rc.getLsbD j = true) : (writeBits old rw rc mask v).getLsbD j = (old.getLsbD j && v.getLsbD j) := by
  rw [writeBits_getLsbD, hm, hw, hc]; simp

/-- The R/W bits of SR. -/
theorem State.srWritable_getLsbD (s : State) (j : Nat) :
    s.srWritable.getLsbD j = ((0x000F#16).getLsbD j || (!s.nstdis && (0x00E0#16).getLsbD j)) := by
  unfold State.srWritable
  cases s.nstdis
  · exact BitVec.getLsbD_or (x := 0x000F#16) (y := 0x00E0#16)
  · simp

/-- Settles O49: CORCON bit by bit. -/
theorem cORCONWriteCannotSetIPL3 : Obligations.CORCONWriteCannotSetIPL3 := by
  intro s v h
  refine ⟨_, Flow.thenAdvance_room s { s with corcon := writeBits s.corcon corconWritable corconClearable 0xFFFF#16 v } h rfl,
    ?_, ?_, ?_, ?_, ?_, rfl⟩
  · show (writeBits s.corcon corconWritable corconClearable 0xFFFF#16 v).getLsbD 3 = (s.corcon.getLsbD 3 && v.getLsbD 3)
    exact writeBits_getLsbD_cleared rfl rfl rfl
  · exact writeBits_getLsbD_kept (j := 2) (.inr ⟨rfl, rfl⟩)
  · refine congrArg BitVec.toNat (extract_congr 8 3 fun j h1 h2 => writeBits_getLsbD_kept (.inr ?_))
    have : j = 8 ∨ j = 9 ∨ j = 10 := by omega
    rcases this with rfl | rfl | rfl <;> exact ⟨rfl, rfl⟩
  · exact writeBits_getLsbD_kept (j := 14) (.inr ⟨rfl, rfl⟩)
  · intro j hj
    have h16 : j < 16 := by omega
    rcases mem_range16 h16 with h | h | h | h | h | h | h | h | h | h | h | h | h | h | h | h <;> subst h <;>
      first | exact writeBits_getLsbD_stored rfl rfl rfl | omega

/-- A write to SR that covers IPL<2:0> hands the next boundary the old SR unless nesting is disabled. -/
theorem State.ipl_unwritten (s : State) (mask : Word) (hm : mask &&& 0x00E0#16 = 0x00E0#16) :
    mask &&& s.srWritable &&& 0x00E0#16 = 0#16 ↔ s.nstdis = true := by
  have e : mask &&& s.srWritable &&& 0x00E0#16 = s.srWritable &&& 0x00E0#16 := by
    rw [BitVec.and_assoc, BitVec.and_comm s.srWritable, ← BitVec.and_assoc, hm, BitVec.and_comm]
  rw [e]
  unfold State.srWritable
  cases s.nstdis <;> decide

/-- The state after a write to SR. -/
def State.srWritten (s : State) (mask v : Word) : State := { s with
  pc := s.pc + 2#24
  sr := writeBits s.sr s.srWritable srClearable mask v
  lag := { s.lag with masks := if mask &&& s.srWritable &&& 0x00E0#16 = 0#16 then s.lag.masks
                               else .ipl s.sr s.hardHeld :: s.lag.masks } }

/-- Settles O48: SR bit by bit, the field IPL<2:0>, and IPL3. -/
theorem sRWriteRespectsNSTDIS : Obligations.SRWriteRespectsNSTDIS := by
  intro s v h
  have lag (mask : Word) (hm : mask &&& 0x00E0#16 = 0x00E0#16) :
      (if mask &&& s.srWritable &&& 0x00E0#16 = 0#16 then s.lag.masks else .ipl s.sr s.hardHeld :: s.lag.masks)
        = if s.nstdis then s.lag.masks else .ipl s.sr s.hardHeld :: s.lag.masks := by
    simp only [s.ipl_unwritten mask hm]
  have written (mask w : Word) : (s.writeReg .sr mask w).thenAdvance = .next (s.srWritten mask w) := by
    rw [s.writeReg_sr]
    exact Flow.thenAdvance_room s _ h rfl
  refine ⟨⟨_, written 0xFFFF#16 v, fun j hj => ?_, fun j hj => ?_, fun j hj => ?_, fun j hj => ?_, ?_, rfl⟩,
    ⟨_, written 0x00E0#16 (v <<< 5), ?_, fun j hj => ?_, ?_, rfl⟩, fun t => ?_,
    ⟨_, Flow.thenAdvance_room s { s with corcon := writeBits s.corcon corconWritable corconClearable 0x0008#16 (0#16 <<< 3) } h rfl,
      ?_, fun j hj => ?_, rfl⟩⟩
  · have : j = 0 ∨ j = 1 ∨ j = 2 ∨ j = 3 := by omega
    rcases this with rfl | rfl | rfl | rfl <;>
      exact writeBits_getLsbD_stored rfl (by rw [s.srWritable_getLsbD]; rfl) rfl
  · show (writeBits s.sr s.srWritable srClearable 0xFFFF#16 v).getLsbD j = _
    rcases hj with rfl | rfl | rfl <;> rw [writeBits_getLsbD, s.srWritable_getLsbD] <;> cases s.nstdis <;> simp [srClearable]
  · rcases hj with rfl | rfl | rfl <;>
      exact writeBits_getLsbD_cleared rfl (by rw [s.srWritable_getLsbD]; cases s.nstdis <;> rfl) rfl
  · rcases hj with rfl | rfl | rfl | rfl | rfl | rfl <;>
      exact writeBits_getLsbD_kept (.inr ⟨by rw [s.srWritable_getLsbD]; cases s.nstdis <;> rfl, rfl⟩)
  · exact congrArg (fun m => { s.lag with masks := m }) (lag 0xFFFF#16 (by decide))
  · show ((writeBits s.sr s.srWritable srClearable 0x00E0#16 (v <<< 5)).extractLsb' 5 3).toNat = _
    cases hn : s.nstdis
    · have : (writeBits s.sr s.srWritable srClearable 0x00E0#16 (v <<< 5)).extractLsb' 5 3 = v.extractLsb' 0 3 := by
        apply word_ext
        intro i hi
        rw [BitVec.getLsbD_extractLsb', BitVec.getLsbD_extractLsb', writeBits_getLsbD, s.srWritable_getLsbD, hn]
        have : i = 0 ∨ i = 1 ∨ i = 2 := by omega
        rcases this with rfl | rfl | rfl <;> simp [srClearable]
      rw [this, BitVec.extractLsb'_toNat]
      rfl
    · have : (writeBits s.sr s.srWritable srClearable 0x00E0#16 (v <<< 5)).extractLsb' 5 3 = s.sr.extractLsb' 5 3 :=
        extract_congr 5 3 fun j h1 h2 => writeBits_getLsbD_kept (.inr ?_)
      · rw [this]; rfl
      · have : j = 5 ∨ j = 6 ∨ j = 7 := by omega
        rw [s.srWritable_getLsbD, hn]
        rcases this with rfl | rfl | rfl <;> exact ⟨rfl, rfl⟩
  · refine writeBits_getLsbD_kept (.inl ?_)
    by_cases h16 : j < 16
    · rcases mem_range16 h16 with h | h | h | h | h | h | h | h | h | h | h | h | h | h | h | h <;> subst h <;>
        first | rfl | omega
    · exact BitVec.getLsbD_of_ge _ _ (Nat.le_of_not_lt h16)
  · exact congrArg (fun m => { s.lag with masks := m }) (lag 0x00E0#16 (by decide))
  · unfold State.hardHeld
    rw [List.mem_filter, Bool.and_eq_true, decide_eq_true_eq]
    cases t <;> simp [hardTraps, trapIsSoft]
  · refine (writeBits_getLsbD_cleared (j := 3) rfl rfl rfl).trans ?_
    simp
  · refine writeBits_getLsbD_kept (.inl ?_)
    by_cases h16 : j < 16
    · rcases mem_range16 h16 with h | h | h | h | h | h | h | h | h | h | h | h | h | h | h | h <;> subst h <;>
        first | rfl | omega
    · exact BitVec.getLsbD_of_ge _ _ (Nat.le_of_not_lt h16)

/-! ### INTCON1, INTCON2 and INTCON4 -/

/-- Settles O52: the flags that rise are v's where s has a 0. -/
theorem iNTCON1WriteStoresFlags : Obligations.INTCON1WriteStoresFlags := by
  intro s v h
  have hnew : writeBits s.intcon1 0xFFFE#16 0#16 0xFFFF#16 v = (s.intcon1 &&& 0x0001#16) ||| (v &&& 0xFFFE#16) :=
    writeBits_full _ _ _
  have bit (j : Nat) (hj : (0xFFFE#16).getLsbD j = true) (hj' : (0x0001#16).getLsbD j = false) :
      s.rises ((s.intcon1 &&& 0x0001#16) ||| (v &&& 0xFFFE#16)) j = (v.getLsbD j && !s.intcon1.getLsbD j) := by
    unfold State.rises
    rw [BitVec.getLsbD_or, BitVec.getLsbD_and, BitVec.getLsbD_and, hj, hj', Bool.and_false, Bool.false_or, Bool.and_true]
  have still {j : Nat} (hj : v.getLsbD j = true → s.intcon1.getLsbD j = true) : (v.getLsbD j && !s.intcon1.getLsbD j) = false := by
    cases hv : v.getLsbD j
    · rfl
    · rw [hj hv]; rfl
  have up {j : Nat} (hr : (v.getLsbD j && !s.intcon1.getLsbD j) = true) : v.getLsbD j = true ∧ s.intcon1.getLsbD j = false := by
    rwa [Bool.and_eq_true, Bool.not_eq_true'] at hr
  have hexec : exec (.write .intcon1 v) s = (s.writeIntcon1 0xFFFF#16 v).thenAdvance := rfl
  have quiet (h1 : v.getLsbD 1 = true → s.intcon1.getLsbD 1 = true) (h3 : v.getLsbD 3 = true → s.intcon1.getLsbD 3 = true) :
      exec (.write .intcon1 v) s
        = .next { s with intcon1 := (s.intcon1 &&& 0x0001#16) ||| (v &&& 0xFFFE#16), pc := s.pc + 2#24 } := by
    rw [hexec, s.writeIntcon1_quiet _ v _ hnew ((bit 1 rfl rfl).trans (still h1)) ((bit 3 rfl rfl).trans (still h3))]
    exact Flow.thenAdvance_room s _ h rfl
  have key : ∀ t, exec (.write .intcon1 v) s = .next t →
      (v.getLsbD 1 = true → s.intcon1.getLsbD 1 = true) → (v.getLsbD 3 = true → s.intcon1.getLsbD 3 = true) →
        t = { s with intcon1 := (s.intcon1 &&& 0x0001#16) ||| (v &&& 0xFFFE#16), pc := s.pc + 2#24 } := by
    intro t ht h1 h3
    exact Host.Outcome.next.inj (ht.symm.trans (quiet h1 h3))
  rcases s.writeIntcon1_cases 0xFFFF#16 v .none hnew with ⟨n, hw, hl⟩ | ⟨z, hw, hc⟩
  · have ht := hexec.trans ((congrArg Flow.thenAdvance hw).trans (Flow.thenAdvance_room s _ h rfl))
    refine ⟨_, ht, .inr ⟨n, rfl⟩, key _ ht, fun _ hv hs hgt => absurd (hl ?_) (Nat.not_le_of_lt hgt)⟩
    rw [bit 3 rfl rfl, hv, hs]; rfl
  · have ht : exec (.write .intcon1 v) s = .next (State.deviceReset z true) := hexec.trans (congrArg Flow.thenAdvance hw)
    refine ⟨_, ht, .inl ⟨z.deviceReset_justReset true, z.deviceReset_trapr, ?_⟩, key _ ht,
      fun _ _ _ _ => ⟨z.deviceReset_justReset true, z.deviceReset_trapr⟩⟩
    rw [bit 1 rfl rfl, bit 3 rfl rfl] at hc
    refine hc.imp (fun ⟨hr, hk⟩ => ⟨(up hr).1, (up hr).2, hk⟩) fun ⟨hr, hk⟩ => ⟨(up hr).1, (up hr).2, hk.imp id fun h => (up h).1⟩

/-- The state after a write to INTCON2 that resets nothing. -/
def State.intcon2Written (s : State) (mask v new : Word) : State := { s with
  pc := s.pc + 2#24
  intcon2 := new
  intcon4 := if mask.getLsbD 13 && v.getLsbD 13 then s.intcon4 ||| 0x0001#16 else s.intcon4
  lag := { s.lag with gie := s.gieAfter new } }

/-- A write to INTCON2 completes, and resets the device exactly when it sets SWTRAP with a hard trap conflict. -/
theorem State.writeIntcon2_next (s : State) (h : s.roomAfter 1) (mask v : Word) {new : Word}
    (hnew : writeBits s.intcon2 0xA01F#16 0#16 mask v = new) :
    ((s.writeIntcon2 mask v).thenAdvance = .next (s.intcon2Written mask v new)
        ∧ ¬ ((mask.getLsbD 13 && v.getLsbD 13) = true ∧ s.genericConflict .none))
      ∨ ∃ z, (s.writeIntcon2 mask v).thenAdvance = .next (State.deviceReset z true)
          ∧ (mask.getLsbD 13 && v.getLsbD 13) = true ∧ s.genericConflict .none := by
  refine (s.writeIntcon2_cases mask v .none hnew).imp (fun ⟨hw, hc⟩ => ⟨?_, hc⟩) fun ⟨z, hw, hc⟩ => ⟨z, by rw [hw]; rfl, hc⟩
  rw [hw]
  exact Flow.thenAdvance_room s _ h rfl

theorem not_genericConflict {s : State} (h : s.hardConflict .genericHard = false) : ¬ s.genericConflict .none :=
  fun ⟨_, hc⟩ => absurd (h.symm.trans hc) (by decide)

/-- A write of the bit SWTRAP alone. -/
theorem writeBits_swtrap (old v : Word) {new : Word}
    (hb : ∀ j, j < 16 → new.getLsbD j = if j = 13 then v.getLsbD 13 else old.getLsbD j) :
    writeBits old 0xA01F#16 0#16 0x2000#16 v = new := by
  apply word_ext
  intro j hj
  rw [hb j hj]
  by_cases h13 : j = 13
  · subst h13; rw [if_pos rfl]; exact writeBits_getLsbD_stored rfl rfl rfl
  · rw [if_neg h13]
    refine writeBits_getLsbD_kept (.inl ?_)
    rcases mem_range16 hj with h | h | h | h | h | h | h | h | h | h | h | h | h | h | h | h <;> subst h <;>
      first | rfl | exact absurd rfl h13

/-- Settles O50: the write of the one bit SWTRAP, by what the event of the generic hard trap does. -/
theorem sWTRAPWriteRaisesGenericHardTrap : Obligations.SWTRAPWriteRaisesGenericHardTrap := by
  intro s h
  have lag {w : Word} (hw : w.getLsbD 15 = s.intcon2.getLsbD 15) : s.gieAfter w = s.lag.gie := if_pos hw
  have set : writeBits s.intcon2 0xA01F#16 0#16 0x2000#16 0x2000#16 = s.intcon2 ||| 0x2000#16 :=
    writeBits_swtrap _ _ fun j hj => by
      rcases mem_range16 hj with h | h | h | h | h | h | h | h | h | h | h | h | h | h | h | h <;> subst h <;> simp
  have clear : writeBits s.intcon2 0xA01F#16 0#16 0x2000#16 0#16 = s.intcon2 &&& ~~~0x2000#16 :=
    writeBits_swtrap _ _ fun j hj => by
      rcases mem_range16 hj with h | h | h | h | h | h | h | h | h | h | h | h | h | h | h | h <;> subst h <;> simp
  refine ⟨?_, ?_⟩
  · rcases s.writeIntcon2_next h 0x2000#16 0x2000#16 set with ⟨hw, hc⟩ | ⟨z, hw, -, hc⟩
    · refine ⟨_, hw, fun _ => ⟨?_, rfl, ?_⟩, fun hk hp => absurd ⟨rfl, hp, hk⟩ hc⟩
      · show (s.intcon4 ||| 0x0001#16).getLsbD 0 = true
        simp
      · unfold State.intcon2Written
        rw [lag (by simp)]
        rfl
    · exact ⟨_, hw, fun hk => absurd hc (not_genericConflict hk), fun _ _ => ⟨z.deviceReset_justReset true, z.deviceReset_trapr⟩⟩
  · rcases s.writeIntcon2_next h 0x2000#16 0#16 clear with ⟨hw, -⟩ | ⟨z, -, h0, -⟩
    · exact ⟨_, hw, rfl, rfl⟩
    · cases h0

/-- Settles O55: each register's own write. -/
theorem plainRegisterWrites : Obligations.PlainRegisterWrites := by
  intro s i v h
  have full (old : Word) : mergeBits old 0xFFFF#16 v = v := mergeBits_full old v
  have plain {u u' : State} (hp : u.pc = s.pc) (hu : { u with pc := s.pc + 2#24 } = u') : (Flow.go u).thenAdvance = .next u' := by
    rw [Flow.thenAdvance_room s u h hp, hu]
  have h2 : v.getLsbD 14 = s.disiBit → exec (.write .intcon2 v) s = (s.writeIntcon2 0xFFFF#16 v).thenAdvance := fun hd => by
    show (s.writeReg .intcon2 0xFFFF#16 v).thenAdvance = _
    unfold State.writeReg
    rw [if_neg (by rw [hd]; simp)]
  have n2 : writeBits s.intcon2 0xA01F#16 0#16 0xFFFF#16 v = (s.intcon2 &&& ~~~0xA01F#16) ||| (v &&& 0xA01F#16) :=
    writeBits_full _ _ _
  have n4 : writeBits s.intcon4 0x0001#16 0#16 0xFFFF#16 v = (s.intcon4 &&& ~~~0x0001#16) ||| (v &&& 0x0001#16) :=
    writeBits_full _ _ _
  have b0 : ((s.intcon4 &&& ~~~0x0001#16) ||| (v &&& 0x0001#16)).getLsbD 0 = v.getLsbD 0 := by simp
  have b15 : ((s.intcon2 &&& ~~~0xA01F#16) ||| (v &&& 0xA01F#16)).getLsbD 15 = v.getLsbD 15 := by simp
  refine ⟨plain rfl ?_, plain rfl ?_, plain rfl ?_, plain rfl rfl, plain rfl ?_, plain rfl ?_, plain rfl ?_, plain rfl ?_,
    plain rfl ?_, plain rfl ?_, plain rfl ?_, plain rfl ?_, fun hd hk => ?_, fun hd h13 hp hk => ?_, fun hk => ?_,
    fun h0 hp hk => ?_⟩
  · exact congrArg (fun x => { s with w := s.w.set i.val x, pc := s.pc + 2#24 }) (full _)
  · exact congrArg (fun x => { s with splim := x, splimArmed := true, pc := s.pc + 2#24 }) (full _)
  · exact congrArg (fun x => { s with intcon3 := x, pc := s.pc + 2#24 }) (writeBits_full _ _ _)
  · exact congrArg (fun x => { s with rcon := x, pc := s.pc + 2#24 }) (full _)
  · exact congrArg (fun x => { s with osccon := x, pc := s.pc + 2#24 }) (full _)
  · exact congrArg (fun x => { s with mstrpr := x, pc := s.pc + 2#24 }) (full _)
  · exact congrArg (fun x => { s with dsrPage := x, pc := s.pc + 2#24 }) (full _)
  · exact congrArg (fun x => { s with dswPage := x, pc := s.pc + 2#24 }) (full _)
  · exact congrArg (fun x => { s with bdtp1 := x, pc := s.pc + 2#24 }) (full _)
  · exact congrArg (fun x => { s with bdtp2 := x, pc := s.pc + 2#24 }) (full _)
  · exact congrArg (fun x => { s with bdtp3 := x, pc := s.pc + 2#24 }) (full _)
  · rw [h2 hd]
    rcases s.writeIntcon2_next h 0xFFFF#16 v n2 with ⟨hw, -⟩ | ⟨z, -, h13, hc⟩
    · rw [hw, State.intcon2Written, State.gieAfter, b15]
      rfl
    · exact absurd hc (not_genericConflict (hk h13))
  · rw [h2 hd]
    rcases s.writeIntcon2_next h 0xFFFF#16 v n2 with ⟨-, hc⟩ | ⟨z, hw, -, -⟩
    · exact absurd ⟨h13, hp, hk⟩ hc
    · exact ⟨_, hw, z.deviceReset_justReset true, z.deviceReset_trapr⟩
  · show (s.writeIntcon4 0xFFFF#16 v).thenAdvance = _
    rcases s.writeIntcon4_cases 0xFFFF#16 v .none n4 with ⟨hw, -⟩ | ⟨z, -, h0, hp, hc⟩
    · rw [hw]; exact plain rfl rfl
    · exact absurd (hc.symm.trans (hk (b0.symm.trans h0) hp)) (by decide)
  · rcases s.writeIntcon4_cases 0xFFFF#16 v .none n4 with ⟨-, hc⟩ | ⟨z, hw, -⟩
    · exact absurd ⟨b0.trans h0, hp, hk⟩ hc
    · exact ⟨_, congrArg Flow.thenAdvance hw, z.deviceReset_justReset true, z.deviceReset_trapr⟩

end Sys2Proof.Machine
end

section
/-! The registers as software writes them field by field (spec/41_referenced_instructions.md R165), and the fields of the interrupt
sources (spec/10_state.md R50 to R54). -/

namespace Sys2Proof.Machine

/-! ### The bits of a field -/

theorem fieldMask_getLsbD (f : FieldName) {j : Nat} (hj : j < 16) :
    f.mask.getLsbD j = decide (f.low ≤ j ∧ j < f.low + f.width) := by
  unfold FieldName.mask
  rw [BitVec.getLsbD_ofNat, decide_eq_true hj, Bool.true_and, Nat.testBit_mul_two_pow, Nat.testBit_two_pow_sub_one,
    ← Bool.decide_and, decide_eq_decide]
  omega

theorem fieldMask_inside (f : FieldName) {i : Nat} (hi : i < f.width) (hj : f.low + i < 16) :
    f.mask.getLsbD (f.low + i) = true := by
  rw [fieldMask_getLsbD f hj, decide_eq_true_eq]; omega

/-- The bits a write of a field hands to its register. -/
theorem field_getLsbD (v : Word) {low i : Nat} (hj : low + i < 16) : (v <<< low).getLsbD (low + i) = v.getLsbD i := by
  rw [BitVec.getLsbD_shiftLeft, decide_eq_true hj, decide_eq_false (by omega : ¬ low + i < low), Nat.add_sub_cancel_left]
  rfl

theorem field_getLsbD_zero (v : Word) {low : Nat} (hj : low < 16) : (v <<< low).getLsbD low = v.getLsbD 0 :=
  field_getLsbD v (i := 0) hj

/-- The R/W bits of the control registers, by NSTDIS; those of a source are its device's. -/
def controlWritable (nstdis : Bool) : RegName → Word
  | .sr => if nstdis then 0x000F#16 else 0x00EF#16
  | .corcon => corconWritable
  | .intcon1 => 0xFFFE#16
  | .intcon2 => 0xA01F#16
  | .intcon3 => 0x0070#16
  | .intcon4 => 0x0001#16
  | .ifs _ | .iec _ | .ipc _ | .inttreg => 0x0000#16
  | .w _ | .splim | .disicnt | .rcon | .osccon | .mstrpr | .dsrPage | .dswPage | .bdtp1 | .bdtp2 | .bdtp3 => 0xFFFF#16

def isControl : RegName → Bool
  | .ifs _ | .iec _ | .ipc _ => false
  | _ => true

theorem State.writableBits_control (s : State) {r : RegName} (h : isControl r = true) :
    s.writableBits r = controlWritable s.nstdis r := by
  cases r <;> first | rfl | cases h

/-- A listed field, where its register has it, and its bits that a write can store. -/
def fieldAt (f : FieldName) (r : RegName) (low width : Nat) : Bool :=
  f.reg == r && f.low == low && f.width == width && decide (low + width ≤ 16) && isControl r

theorem fieldAt_iff {f : FieldName} {r : RegName} {low width : Nat} (h : fieldAt f r low width = true) :
    f.reg = r ∧ f.low = low ∧ f.width = width ∧ low + width ≤ 16 ∧ isControl r = true := by
  simpa [fieldAt, and_assoc] using h

theorem storedFields_stored : ∀ x ∈ storedFields, ∀ n : Bool, fieldAt x.1 x.2.1 x.2.2.1 x.2.2.2 = true
    ∧ x.1.mask &&& controlWritable n x.2.1 = x.1.mask ∧ x.1.mask &&& clearableBits x.2.1 = 0#16 := by decide

theorem clearableFields_cleared : ∀ x ∈ clearableFields, ∀ n : Bool, fieldAt x.1 x.2.1 x.2.2 1 = true
    ∧ x.1.mask &&& controlWritable n x.2.1 = 0#16 ∧ x.1.mask &&& clearableBits x.2.1 = x.1.mask := by decide

theorem readOnlyFields_kept : ∀ x ∈ readOnlyFields, ∀ n : Bool, fieldAt x.1 x.2.1 x.2.2.1 x.2.2.2 = true
    ∧ x.1.mask &&& controlWritable n x.2.1 = 0#16 ∧ x.1.mask &&& clearableBits x.2.1 = 0#16 := by decide

theorem set_of_and {m a : Word} (h : m &&& a = m) {j : Nat} (hm : m.getLsbD j = true) : a.getLsbD j = true := by
  have := congrArg (fun x : Word => x.getLsbD j) h
  simpa [hm] using this

/-- The fields that a trap event or the DISI bit hangs on, by their bit. -/
theorem field_of_bit (f : FieldName) :
    (f.reg = .intcon1 → f.mask.getLsbD 1 = true → f = .oscfail) ∧ (f.reg = .intcon1 → f.mask.getLsbD 3 = true → f = .addrerr)
      ∧ (f.reg = .intcon2 → f.mask.getLsbD 13 = true → f = .swtrap) ∧ (f.reg = .intcon2 → f.mask.getLsbD 14 = true → f = .disi)
      ∧ (f.reg = .intcon2 → f.mask.getLsbD 15 = true → f = .gie) ∧ (f.reg = .intcon4 → f = .sght) := by
  cases f with
  | ifsBit x b | iecBit x b | ipcField x k => exact ⟨nofun, nofun, nofun, nofun, nofun, nofun⟩
  | _ => decide

theorem fieldReg_ne_disicnt (f : FieldName) : f.reg ≠ .disicnt := by cases f <;> nofun

/-! ### WRITEFIELD -/

section
variable {s u : State} {f : FieldName} {v : Word} {e : Earlier}

/-- A write of a field that goes on leaves the other bits of its register. -/
theorem writeField_outside (h : s.writeReg f.reg f.mask (v <<< f.low) e = .go u) {j : Nat} (hj : f.mask.getLsbD j = false) :
    (u.rawReg f.reg).getLsbD j = (s.rawReg f.reg).getLsbD j := by
  rw [State.writeReg_rawReg h (fieldReg_ne_disicnt f)]
  exact writeBits_getLsbD_kept (.inl hj)

variable {r : RegName} {low width : Nat}

/-- A field whose bits are R/W takes the value. -/
theorem writeField_stored (h : s.writeReg f.reg f.mask (v <<< f.low) e = .go u) (hf : fieldAt f r low width = true)
    (hw : f.mask &&& controlWritable s.nstdis r = f.mask) (hc : f.mask &&& clearableBits r = 0#16) :
    (u.rawReg r).extractLsb' low width = v.extractLsb' 0 width := by
  obtain ⟨rfl, rfl, rfl, h16, hr⟩ := fieldAt_iff hf
  apply word_ext
  intro i hi
  have hm := fieldMask_inside f hi (by omega)
  rw [BitVec.getLsbD_extractLsb', BitVec.getLsbD_extractLsb', State.writeReg_rawReg h (fieldReg_ne_disicnt f), s.writableBits_control hr,
    writeBits_getLsbD_stored hm (set_of_and hw hm) (clear_of_and ((BitVec.and_comm _ _).trans hc) hm),
    field_getLsbD v (by omega), Nat.zero_add]

/-- A field whose bit is R/C is cleared by a 0 and kept by a 1. -/
theorem writeField_cleared (h : s.writeReg f.reg f.mask (v <<< f.low) e = .go u) (hf : fieldAt f r low 1 = true)
    (hw : f.mask &&& controlWritable s.nstdis r = 0#16) (hc : f.mask &&& clearableBits r = f.mask) :
    (u.rawReg r).getLsbD low = ((s.rawReg r).getLsbD low && v.getLsbD 0) := by
  obtain ⟨rfl, rfl, hwid, h16, hr⟩ := fieldAt_iff hf
  have hm := fieldMask_inside f (i := 0) (by omega) (by omega)
  rw [Nat.add_zero] at hm
  rw [State.writeReg_rawReg h (fieldReg_ne_disicnt f), s.writableBits_control hr,
    writeBits_getLsbD_cleared hm (clear_of_and ((BitVec.and_comm _ _).trans hw) hm) (set_of_and hc hm),
    field_getLsbD_zero v (by omega)]

/-- A field whose bits are read-only keeps. -/
theorem writeField_kept (h : s.writeReg f.reg f.mask (v <<< f.low) e = .go u) (hf : fieldAt f r low width = true)
    (hw : f.mask &&& controlWritable s.nstdis r = 0#16) (hc : f.mask &&& clearableBits r = 0#16) :
    (u.rawReg r).extractLsb' low width = (s.rawReg r).extractLsb' low width := by
  obtain ⟨rfl, rfl, rfl, h16, hr⟩ := fieldAt_iff hf
  refine extract_congr _ _ fun j h1 h2 => ?_
  have hm : f.mask.getLsbD j = true := by rw [fieldMask_getLsbD f (by omega), decide_eq_true_eq]; exact ⟨h1, h2⟩
  rw [State.writeReg_rawReg h (fieldReg_ne_disicnt f), s.writableBits_control hr]
  exact writeBits_getLsbD_kept
    (.inr ⟨clear_of_and ((BitVec.and_comm _ _).trans hw) hm, clear_of_and ((BitVec.and_comm _ _).trans hc) hm⟩)

/-- A write of a field changes no other register but INTCON4, by SWTRAP. -/
theorem writeField_others (h : s.writeReg f.reg f.mask (v <<< f.low) e = .go u) {r' : RegName} (hr : r' ≠ f.reg)
    (h4 : f = .swtrap → r' ≠ .intcon4) : u.rawReg r' = s.rawReg r' := by
  rcases s.writeReg_cases f.reg f.mask (v <<< f.low) e with ⟨hw, -⟩ | ⟨z, hz, hw | hw⟩ <;> cases h.symm.trans hw
  by_cases hu : f.reg = .intcon2 ∧ r' = .intcon4
  · obtain ⟨h2, rfl⟩ := hu
    have h13 : f.mask.getLsbD 13 = false :=
      Bool.eq_false_iff.mpr fun hm => h4 ((field_of_bit f).2.2.1 h2 hm) rfl
    rw [h2] at h
    unfold State.writeReg at h
    simp only at h
    split at h
    · cases h
    · rcases s.writeIntcon2_cases f.mask (v <<< f.low) e rfl with ⟨hw', -⟩ | ⟨z, hw', -⟩ <;> cases h.symm.trans hw'
      show (if f.mask.getLsbD 13 && (v <<< f.low).getLsbD 13 then s.intcon4 ||| 0x0001#16 else s.intcon4) = s.intcon4
      rw [h13]; rfl
  · exact hz.others r' ⟨hr, fun h2 h4' => hu ⟨h2, h4'⟩, fun h => absurd h (fieldReg_ne_disicnt f)⟩

/-- A write of a field that resets the device sets a hard trap flag with a hard trap conflict. -/
theorem writeField_cut (h : s.writeReg f.reg f.mask (v <<< f.low) e = .cut u) :
    u.justReset ∧ u.rcon.getLsbD 15 = true ∧ v.getLsbD 0 = true
      ∧ ∃ h, ((f = .oscfail ∧ h = .oscillator) ∨ (f = .addrerr ∧ h = .address) ∨ ((f = .sght ∨ f = .swtrap) ∧ h = .genericHard))
          ∧ s.trapPending h = false ∧ s.hardConflict h e = true := by
  have hreset : u.justReset ∧ u.rcon.getLsbD 15 = true := by
    rcases s.writeReg_cases f.reg f.mask (v <<< f.low) e with ⟨hw, -⟩ | ⟨z, hz, hw | hw⟩ <;> cases h.symm.trans hw
    exact ⟨z.deviceReset_justReset true, z.deviceReset_trapr⟩
  refine ⟨hreset.1, hreset.2, ?_⟩
  obtain ⟨osc, addr, swtrap, -, -, sght⟩ := field_of_bit f
  cases hr : f.reg with
  | intcon1 =>
    rw [hr] at h
    have h : s.writeIntcon1 f.mask (v <<< f.low) e = .cut u := h
    have rises {j : Nat} (hj : s.rises (writeBits s.intcon1 0xFFFE#16 0#16 f.mask (v <<< f.low)) j = true) :
        f.mask.getLsbD j = true ∧ s.intcon1.getLsbD j = false ∧ (v <<< f.low).getLsbD j = true := by
      unfold State.rises at hj
      rw [Bool.and_eq_true, Bool.not_eq_true', writeBits_getLsbD] at hj
      obtain ⟨hb, hs⟩ := hj
      rw [hs] at hb
      cases hm : f.mask.getLsbD j <;> rw [hm] at hb
      · simp at hb
      · refine ⟨rfl, hs, ?_⟩
        cases hv : (v <<< f.low).getLsbD j
        · rw [hv] at hb; simp at hb
        · rfl
    rcases s.writeIntcon1_cases f.mask (v <<< f.low) e rfl with ⟨n, hw, -⟩ | ⟨z, hw, hc⟩
    · cases h.symm.trans hw
    · rcases hc with ⟨h1, hc⟩ | ⟨h3, hc⟩
      · obtain ⟨hm, hs, hv⟩ := rises h1
        obtain rfl := osc hr hm
        exact ⟨(field_getLsbD_zero v (by decide)).symm.trans hv, .oscillator, .inl ⟨rfl, rfl⟩, hs, hc⟩
      · obtain ⟨hm, hs, hv⟩ := rises h3
        obtain rfl := addr hr hm
        refine ⟨(field_getLsbD_zero v (by decide)).symm.trans hv, .address, .inr (.inl ⟨rfl, rfl⟩), hs, hc.resolve_right fun h1 => ?_⟩
        exact absurd (rises h1).1 (by decide)
  | intcon2 =>
    rw [hr] at h
    unfold State.writeReg at h
    simp only at h
    split at h
    · cases h
    · rcases s.writeIntcon2_cases f.mask (v <<< f.low) e rfl with ⟨hw, -⟩ | ⟨z, hw, hb, hp, hc⟩
      · cases h.symm.trans hw
      · rw [Bool.and_eq_true] at hb
        obtain rfl := swtrap hr hb.1
        exact ⟨(field_getLsbD_zero v (by decide)).symm.trans hb.2, .genericHard, .inr (.inr ⟨.inr rfl, rfl⟩), hp, hc⟩
  | intcon4 =>
    rw [hr] at h
    obtain rfl := sght hr
    rcases s.writeIntcon4_cases _ (v <<< 0) e rfl with ⟨hw, -⟩ | ⟨z, hw, h0, hp, hc⟩
    · cases h.symm.trans hw
    · refine ⟨?_, .genericHard, .inr (.inr ⟨.inl rfl, rfl⟩), hp, hc⟩
      rw [writeBits_getLsbD_stored rfl rfl rfl] at h0
      exact (field_getLsbD_zero v (by decide)).symm.trans h0
  | sr =>
    rw [hr, State.writeReg_sr] at h
    cases h
  | _ => rw [hr] at h; cases h

end

theorem State.advance_eq (s : State) (n : Nat) : ∃ p d, s.advance n = { s with pc := p, draws := d } :=
  ⟨_, _, (s.advance_frame n).1⟩

theorem State.advance_rawReg (s : State) (n : Nat) (r : RegName) : (s.advance n).rawReg r = s.rawReg r := by
  obtain ⟨p, d, h⟩ := s.advance_eq n
  rw [h]
  cases r <;> rfl

/-- Settles O51: by the access type of each field. -/
theorem writeFieldKeepsOtherBits : Obligations.WriteFieldKeepsOtherBits := by
  intro s t f v h
  have h : (s.writeReg f.reg f.mask (v <<< f.low)).thenAdvance = .next t := h
  rcases (Flow.thenAdvance_eq_next _ t).mp h with hw | ⟨u, hw, rfl⟩
  · exact .inl (writeField_cut hw)
  · simp only [State.advance_rawReg]
    refine .inr ⟨fun j => writeField_outside hw, fun r => writeField_others hw, ?_, fun r low width hm => ?_, fun r low hm => ?_,
      fun r low width hm => ?_⟩
    · rw [(u.advance_frame 1).1]
      rcases s.writeReg_cases f.reg f.mask (v <<< f.low) with ⟨hc, -⟩ | ⟨z, hz, hc | hc⟩ <;> cases hw.symm.trans hc
      exact hz.mem
    · obtain ⟨hf, hwr, hc⟩ := storedFields_stored _ hm s.nstdis
      exact writeField_stored hw hf hwr hc
    · obtain ⟨hf, hwr, hc⟩ := clearableFields_cleared _ hm s.nstdis
      exact writeField_cleared hw hf hwr hc
    · obtain ⟨hf, hwr, hc⟩ := readOnlyFields_kept _ hm s.nstdis
      exact writeField_kept hw hf hwr hc

/-- Settles O56: a register write is refused as U6 only. -/
theorem writesComplete : Obligations.WritesComplete := by
  intro s r f v
  have only (r : RegName) (mask w : Word) (hn : ¬ (r = .intcon2 ∧ mask.getLsbD 14 = true ∧ w.getLsbD 14 ≠ s.disiBit)) :
      ∃ t, (s.writeReg r mask w).thenAdvance = .next t := by
    rcases s.writeReg_cases r mask w with ⟨-, hr, hm, hv⟩ | ⟨u, -, h | h⟩
    · exact absurd ⟨hr, hm, hv⟩ hn
    · exact ⟨_, congrArg Flow.thenAdvance h⟩
    · exact ⟨_, congrArg Flow.thenAdvance h⟩
  have refused (mask w : Word) (hm : mask.getLsbD 14 = true) (hv : w.getLsbD 14 ≠ s.disiBit) :
      (s.writeReg .intcon2 mask w).thenAdvance = .refused .writeOfDisiBit := by
    unfold State.writeReg
    rw [if_pos (by rw [hm, Bool.true_and, bne_iff_ne]; exact hv)]
    rfl
  have bit : (v <<< 14).getLsbD 14 = v.getLsbD 0 := field_getLsbD_zero v (by decide)
  refine ⟨fun ⟨hr, hv⟩ => ?_, fun hn => ?_, fun ⟨hf, hv⟩ => ?_, fun hn => ?_⟩
  · subst hr
    exact refused 0xFFFF#16 v rfl hv
  · exact only r 0xFFFF#16 v fun ⟨hr, _, hv⟩ => hn ⟨hr, hv⟩
  · subst hf
    exact refused (0x4000#16) (v <<< 14) rfl (by rw [bit]; exact hv)
  · refine only f.reg f.mask (v <<< f.low) fun ⟨hr, hm, hv⟩ => hn ?_
    obtain ⟨-, -, -, disi, -, -⟩ := field_of_bit f
    obtain rfl := disi hr hm
    exact ⟨rfl, fun h => hv (bit.trans h)⟩

/-! ### The registers of the interrupt sources -/

section
variable (s : State) (mask v : Word)

theorem regAt_written {k : Nat} (f : Vector Word k) (x : Fin k) (w : Word) (y : Nat) :
    regAt (f.set x.val w) y = if y = x.val then w else regAt f y := regAt_set f x.val y w x.isLt

/-- A bit of an IFS or IEC register after a write to it: those of implemented sources under the mask are stored. -/
theorem sourceBit_written (f : Vector Word 16) (x : Fin 16) (n : Nat) :
    (s.cfg.irqImpl.getLsbD n && (regAt (f.set x.val (writeBits f[x] (irqBits s.cfg x.val) 0#16 mask v)) (n / 16)).getLsbD (n % 16))
      = if n / 16 = x.val ∧ s.cfg.irqImpl.getLsbD n = true ∧ mask.getLsbD (n % 16) = true then v.getLsbD (n % 16)
        else s.cfg.irqImpl.getLsbD n && (regAt f (n / 16)).getLsbD (n % 16) := by
  rw [regAt_written]
  by_cases hx : n / 16 = x.val
  · have hn : 16 * x.val + n % 16 = n := by omega
    have hf : regAt f (n / 16) = f[x] := by rw [hx, regAt_fin]
    rw [if_pos hx, hf, writeBits_getLsbD, irqBits_getLsbD _ _ _ (Nat.mod_lt _ (by omega)) x.isLt, hn, BitVec.getLsbD_zero]
    cases s.cfg.irqImpl.getLsbD n <;> cases mask.getLsbD (n % 16) <;> simp [hx]
  · rw [if_neg hx, if_neg fun h => hx h.1]

/-- A write to IFSx stores the flags of its implemented sources under the mask (R51, R54). -/
theorem irqFlag_written (x : Fin 16) (n : Nat) :
    State.irqFlag { s with ifs := s.ifs.set x.val (writeBits s.ifs[x] (irqBits s.cfg x.val) 0#16 mask v) } n
      = if n / 16 = x.val ∧ s.cfg.irqImpl.getLsbD n = true ∧ mask.getLsbD (n % 16) = true then v.getLsbD (n % 16)
        else s.irqFlag n := sourceBit_written s mask v s.ifs x n

/-- A write to IECx stores the enables of its implemented sources under the mask (R52, R54). -/
theorem irqEnable_written (x : Fin 16) (n : Nat) :
    State.irqEnable { s with iec := s.iec.set x.val (writeBits s.iec[x] (irqBits s.cfg x.val) 0#16 mask v) } n
      = if n / 16 = x.val ∧ s.cfg.irqImpl.getLsbD n = true ∧ mask.getLsbD (n % 16) = true then v.getLsbD (n % 16)
        else s.irqEnable n := sourceBit_written s mask v s.iec x n

/-- A write to IPCx stores the priorities of its implemented sources whose bits the mask covers, and no others (R53, R54). -/
theorem irqPriority_written (x : Fin 62) (n : Nat) (b : Bool) (hb : n / 4 = x.val → ∀ i, i < 3 → mask.getLsbD (4 * (n % 4) + i) = b) :
    State.irqPriority { s with ipc := s.ipc.set x.val (writeBits s.ipc[x] (ipcBits s.cfg x.val) 0#16 mask v) } n
      = if n / 4 = x.val ∧ s.cfg.irqImpl.getLsbD n = true ∧ b = true then (v.extractLsb' (4 * (n % 4)) 3).toNat
        else s.irqPriority n := by
  unfold State.irqPriority
  show (if s.cfg.irqImpl.getLsbD n then ((regAt (s.ipc.set x.val _) (n / 4)).extractLsb' (4 * (n % 4)) 3).toNat else 0) = _
  rw [regAt_written]
  by_cases hi : s.cfg.irqImpl.getLsbD n = true
  · rw [if_pos hi]
    by_cases hx : n / 4 = x.val
    · have hf : regAt s.ipc (n / 4) = s.ipc[x] := by rw [hx, regAt_fin]
      have bits (i : Nat) (h : i < 3) : (ipcBits s.cfg x.val).getLsbD (4 * (n % 4) + i) = true := by
        rw [ipcBits_getLsbD _ _ _ (by omega)]
        have : 4 * x.val + (4 * (n % 4) + i) / 4 = n := by omega
        exact ⟨by omega, by rw [this]; exact hi⟩
      rw [if_pos hx]
      cases b
      · simp only [hi, hf, Bool.false_eq_true, and_false, ↓reduceIte]
        refine congrArg BitVec.toNat (extract_congr _ _ fun j h1 h2 => writeBits_getLsbD_kept (.inl ?_))
        have := hb hx (j - 4 * (n % 4)) (by omega)
        rwa [Nat.add_sub_cancel' h1] at this
      · rw [if_pos ⟨hx, hi, rfl⟩]
        refine congrArg BitVec.toNat (extract_congr _ _ fun j h1 h2 => writeBits_getLsbD_stored ?_ ?_ BitVec.getLsbD_zero)
        · have := hb hx (j - 4 * (n % 4)) (by omega)
          rwa [Nat.add_sub_cancel' h1] at this
        · have := bits (j - 4 * (n % 4)) (by omega)
          rwa [Nat.add_sub_cancel' h1] at this
    · rw [if_neg hx, if_neg fun h => hx h.1, if_pos hi]
  · rw [if_neg hi, if_neg fun h => hi h.2.1, if_neg hi]

end

/-- Settles O54: the mask of a field covers the bits of one source. -/
theorem sourceFieldWritesStore : Obligations.SourceFieldWritesStore := by
  intro s n v h hi
  have mask1 (m : Nat) (hm : m / 16 = n.val / 16) :
      (FieldName.mask (.ifsBit ⟨n.val / 16, by omega⟩ ⟨n.val % 16, by omega⟩)).getLsbD (m % 16) = decide (m = n.val) := by
    rw [fieldMask_getLsbD _ (Nat.mod_lt _ (by omega)), decide_eq_decide]
    show n.val % 16 ≤ m % 16 ∧ m % 16 < n.val % 16 + 1 ↔ _
    omega
  have bit : (v <<< (n.val % 16)).getLsbD (n.val % 16) = v.getLsbD 0 := field_getLsbD_zero v (Nat.mod_lt _ (by omega))
  have one (m : Nat) (old : Bool) :
      (if m / 16 = n.val / 16 ∧ s.cfg.irqImpl.getLsbD m = true
          ∧ (FieldName.mask (.ifsBit ⟨n.val / 16, by omega⟩ ⟨n.val % 16, by omega⟩)).getLsbD (m % 16) = true
        then (v <<< (n.val % 16)).getLsbD (m % 16) else old) = if m = n.val then v.getLsbD 0 else old := by
    by_cases hm : m = n.val
    · subst hm
      rw [if_pos ⟨rfl, hi, by rw [mask1 _ rfl, decide_eq_true rfl]⟩, if_pos rfl, bit]
    · rw [if_neg hm, if_neg]
      rintro ⟨hx, -, hk⟩
      rw [mask1 m hx, decide_eq_true_eq] at hk
      exact hm hk
  refine ⟨⟨_, Flow.thenAdvance_room s _ h rfl, fun m => ?_, rfl⟩, ⟨_, Flow.thenAdvance_room s _ h rfl, fun m => ?_, rfl⟩,
    ⟨_, Flow.thenAdvance_room s _ h rfl, fun m => ?_, rfl⟩⟩
  · exact (irqFlag_written s _ _ ⟨n.val / 16, by omega⟩ m).trans (one m _)
  · exact (irqEnable_written s _ _ ⟨n.val / 16, by omega⟩ m).trans (one m _)
  · refine (irqPriority_written s _ _ ⟨n.val / 4, by omega⟩ m (decide (m = n.val)) fun hx i h3 => ?_).trans ?_
    · rw [fieldMask_getLsbD _ (by omega), decide_eq_decide]
      show 4 * (n.val % 4) ≤ 4 * (m % 4) + i ∧ 4 * (m % 4) + i < 4 * (n.val % 4) + 3 ↔ _
      have hx : m / 4 = n.val / 4 := hx
      omega
    · by_cases hm : m = n.val
      · subst hm
        rw [if_pos ⟨rfl, hi, decide_eq_true rfl⟩, if_pos rfl]
        have : (v <<< (4 * (n.val % 4))).extractLsb' (4 * (n.val % 4)) 3 = v.extractLsb' 0 3 := by
          apply word_ext
          intro i h3
          rw [BitVec.getLsbD_extractLsb', BitVec.getLsbD_extractLsb', field_getLsbD v (by omega), Nat.zero_add]
        refine (congrArg BitVec.toNat this).trans ?_
        rw [BitVec.extractLsb'_toNat]; rfl
      · rw [if_neg hm, if_neg fun h => hm (of_decide_eq_true h.2.2)]

end Sys2Proof.Machine
end

section
/-! The old values a boundary may see: the GIE delay (spec/60_exceptions.md R224) and the mask write lag (R231, D6). -/

namespace Sys2Proof.Machine

variable {A : Reach} {s t u : State}

/-! ### Which old values a step leaves -/

/-- A software write that leaves bit 15 of INTCON2 alone, or another register, adds no old GIE. -/
theorem State.writeReg_gieLag {r : RegName} {mask v : Word} {e : Earlier} (h : s.writeReg r mask v e = .go u) :
    u.lag.gie = s.lag.gie ∨ (r = .intcon2 ∧ mask.getLsbD 15 = true) := by
  rcases (State.writeReg_lag h).1 with hl | rfl
  · exact .inl hl
  · cases hm : mask.getLsbD 15
    · left
      unfold State.writeReg at h
      simp only at h
      split at h
      · cases h
      · rcases s.writeIntcon2_cases mask v e rfl with ⟨hw, -⟩ | ⟨z, hw, -⟩ <;> cases h.symm.trans hw
        exact if_pos (writeBits_getLsbD_kept (.inl hm))
    · exact .inr ⟨rfl, rfl⟩

/-- Every old value left is of a register that a write was allowed to reach. -/
structure LagAllowed (A : Reach) (s : State) : Prop where
  gie : s.lag.gie ≠ none → (∃ mask, A.write .intcon2 mask ∧ mask.getLsbD 15 = true) ∨ A.data .intcon2
  masks : ∀ m ∈ s.lag.masks, (∃ mask, A.write m.reg mask) ∨ A.data m.reg

theorem LagAllowed.of_lag (h : LagAllowed A s) (hl : u.lag = s.lag) : LagAllowed A u := ⟨hl ▸ h.gie, hl ▸ h.masks⟩

theorem LagAllowed.none (hl : s.lag = { gie := none, masks := [] }) : LagAllowed A s := by
  constructor
  · rw [hl]; exact fun h => absurd rfl h
  · rw [hl]; nofun

theorem MaskOld.dropCleared_reg (s : State) (m : MaskOld) : (m.dropCleared s).reg = m.reg := by cases m <;> rfl

theorem LagAllowed.dropCleared (h : LagAllowed A s) : LagAllowed A s.dropCleared := by
  refine ⟨h.gie, fun m hm => ?_⟩
  obtain ⟨old, ho, rfl⟩ := List.mem_map.mp hm
  rw [MaskOld.dropCleared_reg]
  exact h.masks old ho

theorem LagAllowed.effect (he : Effect A s u) (h : LagAllowed A s) : LagAllowed A u := by
  cases he with
  | plain frame pc => exact h.of_lag (by rw [frame])
  | corcon c h1 h2 => exact h.of_lag rfl
  | window frame bits counts => exact h.of_lag (by rw [frame])
  | flag n => exact h.of_lag (by rw [s.setIrqFlag_frame n])
  | raise c e hr => exact h.of_lag (by rw [(raiseCause_raised hr).rest])
  | write r mask v ha hw =>
    refine ⟨fun hg => ?_, fun m hm => ?_⟩
    · rcases State.writeReg_gieLag hw with hl | ⟨rfl, hm⟩
      · exact h.gie (hl ▸ hg)
      · exact .inl ⟨mask, ha, hm⟩
    · rcases (State.writeReg_lag hw).2 m hm with hm | rfl
      · exact h.masks m hm
      · exact .inl ⟨mask, ha⟩
  | @data u r mask v e lag ha hw hl =>
    refine LagAllowed.dropCleared (s := { u with lag := lag }) ?_
    rcases hl with rfl | rfl
    · refine ⟨fun hg => ?_, fun m hm => ?_⟩
      · rcases State.writeReg_gieLag hw with hl | ⟨rfl, -⟩
        · exact h.gie (hl ▸ hg)
        · exact .inr ha
      · rcases (State.writeReg_lag hw).2 m hm with hm | rfl
        · exact h.masks m hm
        · exact .inr ha
    · exact ⟨h.gie, h.masks⟩
  | store ea wide v he => exact h.of_lag (by rw [State.store_frame])
  | waits groups ha hf => exact h.of_lag rfl

theorem LagAllowed.ends (h : Ends A s t) (hs : LagAllowed A s) : LagAllowed A t :=
  h.keeps (fun _ _ he hp => hp.effect he) (fun _ _ _ _ _ _ _ => .none rfl) hs

/-- Every old value that a step leaves was there before, away from a boundary; or the instruction it runs, or a data write
during it, wrote its register. -/
theorem step_lag (h : step s = .next t) :
    t.lag = { gie := none, masks := [] }
      ∨ (s.noBoundary ∧ t.lag.gie = s.lag.gie ∧ ∀ m ∈ t.lag.masks, ∃ m' ∈ s.lag.masks, m'.reg = m.reg)
      ∨ ∃ during, s.nextAction.1 = .run during ∧ LagAllowed (s.nextAction.2.runReach during) t := by
  have hn : s.nextAction.2.lag = s.lag := by rw [s.nextAction_frame]
  have asleep (ha : s.nextAction.1 = .asleep ∨ s.nextAction.1 = .wake) : s.noBoundary := .inr fun hp =>
    ha.elim (s.nextAction_awake hp).1 (s.nextAction_awake hp).2
  have keeps (ha : s.nextAction.1 = .asleep ∨ s.nextAction.1 = .wake) (hl : t.lag = s.lag) :
      s.noBoundary ∧ t.lag.gie = s.lag.gie ∧ ∀ m ∈ t.lag.masks, ∃ m' ∈ s.lag.masks, m'.reg = m.reg :=
    ⟨asleep ha, by rw [hl], fun m hm => ⟨m, hl ▸ hm, rfl⟩⟩
  have reset (hr : t.justReset) : t.lag = { gie := none, masks := [] } := by
    obtain ⟨y, conflict, rfl⟩ := hr; rfl
  rcases step_next s t h with ⟨e, ha, ht | ht⟩ | ⟨ha, rfl⟩ | ⟨ha, rfl⟩ | ⟨src, level, -, ht⟩ | ⟨during, ha, ht⟩
  · obtain ⟨hg, hm⟩ := Event.apply_lag ht
    rw [hn] at hg hm
    exact .inr (.inl ⟨.inl ⟨e, _, Prod.ext ha rfl⟩, hg, hm⟩)
  · have hr := e.apply_reaches_data s.nextAction.2
    rw [ht] at hr
    exact .inl (reset (ResetFrom.justReset hr))
  · exact .inr (.inl (keeps (.inl ha) hn))
  · exact .inr (.inl (keeps (.inr ha) (by rw [s.nextAction.2.wake_frame.1]; exact hn)))
  · rcases enterException_ends src level _ t ht with hr | ⟨pushed, -, he⟩
    · exact .inl (reset hr.justReset)
    · exact .inl he.lag
  · have hb {A : Reach} : LagAllowed A (s.nextAction.2.begun during) := .none rfl
    refine .inr (.inr ⟨during, ha, ?_⟩)
    rcases runNext_ends during _ t ht with ⟨x, hx, rfl⟩ | ⟨x, hx, rfl⟩
    · obtain ⟨hg, hm⟩ := hb.ends hx
      exact ⟨fun hl => .inr ((hg hl).resolve_left fun ⟨_, hw, _⟩ => hw), fun m hm' => .inr ((hm m hm').resolve_left fun ⟨_, hw⟩ => hw)⟩
    · exact (hb.ends hx).dropCleared.of_lag rfl

/-! ### What a boundary sees of them -/

/-- Settles O20: the old GIE is left by a write of bit 15 of INTCON2 only, and a boundary of the running CPU drops it. -/
theorem gIEDelayIsOneBoundary : Obligations.GIEDelayIsOneBoundary := by
  refine ⟨fun s t h hg => ?_, fun s => ⟨fun h => ?_, fun old h => ?_, fun v h => ?_⟩⟩
  · rcases step_lag h with hl | ⟨hn, hl, -⟩ | ⟨during, ha, hl⟩
    · exact absurd (by rw [hl]) hg
    · exact .inl ⟨hn, hl⟩
    · refine .inr ⟨during, _, Prod.ext ha rfl, (hl.gie hg).imp ?_ id⟩
      rintro ⟨mask, ⟨-, v, hf⟩ | ⟨f, v, hf, hr, rfl⟩, hm⟩
      · exact ⟨v, .inl hf⟩
      · obtain ⟨-, -, -, -, gie, -⟩ := field_of_bit f
        obtain rfl := gie hr.symm hm
        exact ⟨v, .inr hf⟩
  · rw [s.sampleGie_idle h]
  · unfold State.sampleGie
    rw [h]
    show (if s.drawBool.1 then old else s.gie) = old ∨ _
    cases s.drawBool.1
    · exact .inr rfl
    · exact .inl rfl
  · have hroom : s.clearLag.roomAfter 1 := h
    have hbit : ((BitVec.ofNat 16 v.toNat) <<< 15).getLsbD 15 = v := by cases v <;> rfl
    have hnew : (writeBits s.intcon2 0xA01F#16 0#16 0x8000#16 ((BitVec.ofNat 16 v.toNat) <<< 15)).getLsbD 15 = v :=
      (writeBits_getLsbD_stored rfl rfl rfl).trans hbit
    rcases s.clearLag.writeIntcon2_next hroom 0x8000#16 ((BitVec.ofNat 16 v.toNat) <<< 15) rfl with ⟨hw, -⟩ | ⟨z, -, h13, -⟩
    · refine ⟨_, hw, hnew, ?_, rfl⟩
      show (if _ = s.gie then none else some s.gie) = _
      rw [show (writeBits s.clearLag.intcon2 0xA01F#16 0#16 0x8000#16 ((BitVec.ofNat 16 v.toNat) <<< 15)).getLsbD 15 = v from hnew]
    · cases h13

/-- The state arbitration reads has some of the old mask values put back. -/
theorem State.withSomeOldMasks_sublist (s : State) (ms : List MaskOld) (k : Nat) :
    ∃ old : List MaskOld, old.Sublist ms ∧ s.withSomeOldMasks ms k = old.foldl State.withOldMask s := by
  induction ms generalizing s k with
  | nil => exact ⟨[], .slnil, rfl⟩
  | cons m ms ih =>
    show ∃ old : List MaskOld, old.Sublist (m :: ms)
      ∧ (if Config.freeNat k % 2 == 1 then s.withOldMask m else s).withSomeOldMasks ms (k + 1) = _
    cases Config.freeNat k % 2 == 1
    · obtain ⟨old, hs, he⟩ := ih s (k + 1)
      exact ⟨old, hs.cons m, he⟩
    · obtain ⟨old, hs, he⟩ := ih (s.withOldMask m) (k + 1)
      exact ⟨m :: old, hs.cons_cons m, he⟩

/-- Settles O53: the lag is MASK_WRITE_LAG's, and a write stores the bits of the implemented sources. -/
theorem sourceWritesStore : Obligations.SourceWritesStore := by
  refine ⟨fun s => ⟨fun h => ?_, fun h => ?_, fun x old => rfl, fun x old => rfl, fun old held => ⟨?_, fun j hj => ?_, rfl⟩⟩,
    fun s t m h hm => ?_, fun s v h => ⟨fun x => ?_, fun x => ?_, fun x => ?_⟩⟩
  · unfold State.maskView; rw [h]; rfl
  · unfold State.maskView
    rw [if_pos h]
    exact ⟨rfl, s.withSomeOldMasks_sublist _ _⟩
  · show ((mergeBits s.sr 0x00E0#16 old).extractLsb' 5 3).toNat = _
    refine congrArg BitVec.toNat (extract_congr 5 3 fun j h1 h2 => ?_)
    have : j = 5 ∨ j = 6 ∨ j = 7 := by omega
    rw [mergeBits_getLsbD]
    rcases this with rfl | rfl | rfl <;> rfl
  · refine mergeBits_keeps _ _ _ _ ?_
    by_cases h16 : j < 16
    · rcases mem_range16 h16 with h | h | h | h | h | h | h | h | h | h | h | h | h | h | h | h <;> subst h <;>
        first | rfl | omega
    · exact BitVec.getLsbD_of_ge _ _ (Nat.le_of_not_lt h16)
  · rcases step_lag h with hl | ⟨hn, -, hl⟩ | ⟨during, ha, hl⟩
    · rw [hl] at hm; cases hm
    · exact .inl ⟨hn, hl m hm⟩
    · refine .inr ⟨during, _, Prod.ext ha rfl, ?_⟩
      rcases hl.masks m hm with ⟨mask, ⟨-, v, hf⟩ | ⟨f, v, hf, hr, -⟩⟩ | hd
      · exact .inl ⟨v, hf⟩
      · exact .inr (.inl ⟨f, v, hf, hr.symm⟩)
      · exact .inr (.inr hd)
  · refine ⟨_, Flow.thenAdvance_room s _ h rfl, fun n hn => (irqFlag_written s _ v x n).trans ?_, rfl⟩
    simp only [fullMask_getLsbD (Nat.mod_lt n (by omega : 0 < 16)), and_true]
  · refine ⟨_, Flow.thenAdvance_room s _ h rfl, fun n hn => (irqEnable_written s _ v x n).trans ?_, rfl⟩
    simp only [fullMask_getLsbD (Nat.mod_lt n (by omega : 0 < 16)), and_true]
  · refine ⟨_, Flow.thenAdvance_room s _ h rfl,
      fun n hn => (irqPriority_written s _ v x n true fun _ i hi => fullMask_getLsbD (by omega)).trans ?_, rfl⟩
    simp only [and_true]

end Sys2Proof.Machine
end

section
/-! When a data access raises a trap event (spec/20_memory.md R91 to R94). -/

namespace Sys2Proof.Machine

variable (s : State) (ea : Word) (wide : Bool)

theorem address_mem_readCauses :
    Cause.address ∈ s.readCauses ea wide ↔ (wide = true ∧ ea.getLsbD 0 = true) ∨ s.dataImplemented ea.toNat = false := by
  unfold State.readCauses
  cases wide <;> cases ea.getLsbD 0 <;> cases s.dataImplemented ea.toNat <;> simp

theorem stack_notMem_readCauses : Cause.stack ∉ s.readCauses ea wide := by
  unfold State.readCauses; split <;> simp

theorem address_mem_writeCauses :
    Cause.address ∈ s.writeCauses ea wide ↔
      (wide = true ∧ ea.getLsbD 0 = true) ∨ (s.dataImplemented ea.toNat = false ∧ s.cfg.writeUnimplTraps = true) := by
  unfold State.writeCauses
  cases wide <;> cases ea.getLsbD 0 <;> cases s.dataImplemented ea.toNat <;> cases s.cfg.writeUnimplTraps <;> simp

theorem stack_notMem_writeCauses : Cause.stack ∉ s.writeCauses ea wide := by
  unfold State.writeCauses
  split
  · simp
  · split <;> simp

theorem stack_mem_stackCauses (wraps : Bool) :
    Cause.stack ∈ s.stackCauses ea wraps ↔
      ea.toNat < 0x1000 ∨ (s.splimArmed = true ∧ s.splim.toNat < ea.toNat) ∨ wraps = true := by
  unfold State.stackCauses
  split
  next h => simpa [or_assoc] using h
  next h => simpa [or_assoc] using h

theorem address_notMem_stackCauses (wraps : Bool) : Cause.address ∉ s.stackCauses ea wraps := by
  unfold State.stackCauses; split <;> simp

/-- The stack pointer checks are those of an EA through W15. -/
theorem pointerCauses_indirect (i : Fin 16) (disp : Int) (extra : Nat) : s.pointerCauses (.indirect i disp) extra =
    if i = 15 then s.stackCauses (s.operandEa (.indirect i disp) extra) (s.operandWraps (.indirect i disp) extra) else [] := rfl

theorem address_notMem_pointerCauses (o : Operand) (extra : Nat) : Cause.address ∉ s.pointerCauses o extra := by
  cases o with
  | indirect i disp =>
    rw [pointerCauses_indirect]
    split
    · exact address_notMem_stackCauses s _ _
    · simp
  | reg i | direct ea | paged ea => exact List.not_mem_nil

theorem stack_mem_pointerCauses {o : Operand} {extra : Nat} (h : Cause.stack ∈ s.pointerCauses o extra) :
    ∃ d, o = .indirect 15 d := by
  cases o with
  | indirect i disp =>
    rw [pointerCauses_indirect] at h
    split at h
    next hi => exact ⟨disp, by rw [hi]⟩
    · cases h
  | reg i | direct ea | paged ea => cases h

theorem operandEa_indirect (i : Fin 16) (disp : Int) :
    s.operandEa (.indirect i disp) 0 = BitVec.ofInt 16 ((s.reg i).toNat + disp) := by
  unfold State.operandEa State.operandSum
  simp

/-- The access through a page (R93). -/
theorem address_mem_paged (page : Word) (b : Bool) :
    Cause.address ∈ (if (wide && b) || page == 0#16 then [Cause.address] else []) ↔ (wide = true ∧ b = true) ∨ page = 0#16 := by
  split
  next h => simpa using h
  next h => simpa using h

theorem operandEa_paged (ea : Word) : s.operandEa (.paged ea) 0 = ea := s.operandEa_direct ea

theorem pop_causes : s.pop.causes
    = s.stackCauses (s.sp - 2#16) (decide (s.sp.toNat < 2) && s.cfg.belowZeroWraps) ++ s.readCauses (s.sp - 2#16) true := by
  unfold State.pop
  simp only
  split
  next h => rw [h, List.append_nil]
  next => rfl

theorem sub_two_odd (a : Word) : (a - 2#16).getLsbD 0 = a.getLsbD 0 := by
  have h := word_even a
  have h' := word_even (a - 2#16)
  have hmod : (a - 2#16).toNat % 2 = a.toNat % 2 := by
    have := a.isLt
    rw [BitVec.toNat_sub, show (2#16).toNat = 2 from rfl]
    omega
  rw [hmod] at h'
  rw [Bool.eq_iff_iff, ← not_iff_not, Bool.not_eq_true, Bool.not_eq_true]
  exact h'.trans h.symm

theorem stack_notMem_paged (page : Word) (b : Bool) :
    Cause.stack ∉ (if (wide && b) || page == 0#16 then [Cause.address] else []) := by split <;> simp

/-- Settles O44: each check by its list of causes. -/
theorem accessChecks : Obligations.AccessChecks := by
  intro s i disp ea wide
  have direct : s.operandEa (.direct ea) 0 = ea := s.operandEa_direct ea
  have read (o : Operand) (h : s.operandReadCauses o 0 wide = s.pointerCauses o 0 ++ s.readCauses (s.operandEa o 0) wide) :
      (Cause.address ∈ s.operandReadCauses o 0 wide ↔
          (wide = true ∧ (s.operandEa o 0).getLsbD 0 = true) ∨ s.dataImplemented (s.operandEa o 0).toNat = false)
        ∧ (Cause.stack ∈ s.operandReadCauses o 0 wide ↔ Cause.stack ∈ s.pointerCauses o 0) := by
    rw [h, List.mem_append, List.mem_append, ← address_mem_readCauses]
    exact ⟨or_iff_right (address_notMem_pointerCauses s o 0), or_iff_left (stack_notMem_readCauses s _ _)⟩
  have write (o : Operand) (h : s.operandWriteCauses o wide = s.pointerCauses o 0 ++ s.writeCauses (s.operandEa o 0) wide) :
      (Cause.address ∈ s.operandWriteCauses o wide ↔
          (wide = true ∧ (s.operandEa o 0).getLsbD 0 = true)
            ∨ (s.dataImplemented (s.operandEa o 0).toNat = false ∧ s.cfg.writeUnimplTraps = true))
        ∧ (Cause.stack ∈ s.operandWriteCauses o wide ↔ Cause.stack ∈ s.pointerCauses o 0) := by
    rw [h, List.mem_append, List.mem_append, ← address_mem_writeCauses]
    exact ⟨or_iff_right (address_notMem_pointerCauses s o 0), or_iff_left (stack_notMem_writeCauses s _ _)⟩
  refine ⟨?_, ?_, ?_, ?_, fun at_ hat => ?_, fun o h => ?_, ?_, ?_, ?_, ?_⟩
  · exact (address_mem_paged wide s.dsrPage _).trans (by rw [operandEa_paged])
  · exact (address_mem_paged wide s.dswPage _).trans (by rw [operandEa_paged])
  · rw [(read (.direct ea) rfl).1, direct]
  · rw [(write (.direct ea) rfl).1, direct]
  · obtain ⟨hra, hrs⟩ := read (.indirect i disp) rfl
    obtain ⟨hwa, hws⟩ := write (.indirect i disp) rfl
    have hea : s.operandEa (.indirect i disp) 0 = at_ := (operandEa_indirect s i disp).trans hat.symm
    rw [hea] at hra hwa
    refine ⟨hra, hwa, hrs.trans ?_, hws.trans hrs.symm⟩
    rw [pointerCauses_indirect, hea]
    by_cases hi : i = 15
    · subst hi
      rw [if_pos rfl, stack_mem_stackCauses, and_iff_right rfl]
      refine or_congr Iff.rfl (or_congr Iff.rfl ?_)
      unfold State.operandWraps State.operandSum
      simp [State.sp]
    · rw [if_neg hi]
      exact ⟨nofun, fun h => absurd h.1 hi⟩
  · refine stack_mem_pointerCauses s (o := o) (extra := 0) ?_
    cases o with
    | reg r => rcases h with h | h <;> cases h
    | paged a => rcases h with h | h <;> exact absurd h (stack_notMem_paged wide _ _)
    | indirect r d => exact h.elim (read (.indirect r d) rfl).2.mp (write (.indirect r d) rfl).2.mp
    | direct a => exact h.elim (read (.direct a) rfl).2.mp (write (.direct a) rfl).2.mp
  · unfold State.pushCauses
    rw [List.mem_append, or_iff_left (stack_notMem_writeCauses s _ _), stack_mem_stackCauses]
    simp
  · rw [pop_causes, List.mem_append, or_iff_left (stack_notMem_readCauses s _ _), stack_mem_stackCauses]
    simp
  · unfold State.pushCauses
    rw [List.mem_append, or_iff_right (address_notMem_stackCauses s _ _), address_mem_writeCauses]
    simp
  · rw [pop_causes, List.mem_append, or_iff_right (address_notMem_stackCauses s _ _), address_mem_readCauses, sub_two_odd]
    simp

end Sys2Proof.Machine
end

section
/-! The instructions of the table that read data: MOV.D, TBLRDx, BTSC, BTSS (spec/41_referenced_instructions.md R159 to R162). -/

namespace Sys2Proof.Machine

variable {s t u : State}

/-! ### Reading an operand -/

theorem pointerCauses_access (s : State) (o : Operand) (extra : Nat) : AccessCauses (s.pointerCauses o extra) := by
  cases o with
  | indirect i disp =>
    rw [pointerCauses_indirect]
    split
    · exact stackCauses_access s _ _
    · exact nofun
  | reg i | direct ea | paged ea => exact nofun

theorem pagedCauses_access (b : Bool) : AccessCauses (if b then [Cause.address] else []) := by
  cases b
  · exact nofun
  · intro c hc
    exact .inr (List.mem_singleton.mp hc)

theorem operandReadCauses_access (s : State) (o : Operand) (extra : Nat) (wide : Bool) :
    AccessCauses (s.operandReadCauses o extra wide) := by
  cases o with
  | reg i => exact nofun
  | indirect i disp | direct ea => exact accessCauses_append (pointerCauses_access s _ _) (readCauses_access s _ _)
  | paged ea => exact pagedCauses_access _

theorem operandWriteCauses_access (s : State) (o : Operand) (wide : Bool) : AccessCauses (s.operandWriteCauses o wide) := by
  cases o with
  | reg i => exact nofun
  | indirect i disp | direct ea => exact accessCauses_append (pointerCauses_access s _ _) (writeCauses_access s _ _)
  | paged ea => exact pagedCauses_access _

/-- A word read meets an unwritten byte exactly where its value is unknown. -/
theorem unwritten_word (s : State) (ea : Word) : s.unwritten ea true = true ↔ s.readWord ea = none := by
  unfold State.unwritten State.readWord
  cases s.registerAt ea.toNat <;> simp

/-- Which bytes nothing has written, the memory and the device say. -/
theorem unwritten_congr (hm : t.mem = s.mem) (hc : t.cfg = s.cfg) (ea : Word) (wide : Bool) :
    t.unwritten ea wide = s.unwritten ea wide := by
  unfold State.unwritten State.registerAt State.memWord State.readByte
  rw [hm, hc]

theorem meetsUnwritten_congr (hm : t.mem = s.mem) (hc : t.cfg = s.cfg) (start : State) (o : Operand) (extra : Nat) (wide : Bool) :
    t.meetsUnwritten start o extra wide = s.meetsUnwritten start o extra wide := by
  unfold State.meetsUnwritten
  cases o <;> simp only [unwritten_congr hm hc]

/-- The fetch of an operand raises the trap events of its read, and draws at most a free value. -/
theorem fetchOperand_frame (s : State) (o : Operand) :
    (s.fetchOperand o).causes = s.operandReadCauses o 0 true ∧ ∃ n, (s.fetchOperand o).st = { s with draws := n } := by
  cases o with
  | reg i => exact ⟨rfl, s.draws, rfl⟩
  | paged ea => exact ⟨rfl, s.draws + 1, rfl⟩
  | indirect i disp | direct ea =>
    unfold State.fetchOperand
    simp only
    split
    · exact ⟨rfl, s.draws + 1, rfl⟩
    · exact ⟨rfl, s.draws, rfl⟩

/-- The fetch of an operand of data memory that raises no trap event. -/
theorem fetchOperand_quiet (s : State) (o : Operand) (ho : (∃ i disp, o = .indirect i disp) ∨ ∃ ea, o = .direct ea)
    (hc : s.operandReadCauses o 0 true = []) :
    s.fetchOperand o = { value := s.readWord (s.operandEa o 0), causes := [], st := s } := by
  obtain ⟨i, disp, rfl⟩ | ⟨ea, rfl⟩ := ho <;>
    unfold State.fetchOperand <;> rw [hc] <;> rfl

/-! ### BTSC and BTSS -/

theorem wordsAfter_le (s : State) : s.wordsAfter ≤ 2 := by
  unfold State.wordsAfter
  split
  · unfold wordCount
    split <;> omega
  all_goals omega

theorem State.roomAfter_mono {m n : Nat} (h : s.roomAfter n) (hmn : m ≤ n) : s.roomAfter m := ⟨h.1, by have := h.2; omega⟩

/-- Where the bit test goes on. -/
def State.skipPc (s : State) (skips : Prop) [Decidable skips] : PAddr :=
  if skips then s.pc + BitVec.ofNat 24 (2 + 2 * s.wordsAfter) else s.pc + 2#24

/-- The bit test of a value that is known, once its trap events have let the run go on. -/
theorem testAndSkip_known {src : Operand} {bit : Fin 16} {skipsOn : Bool} {v : Word} (hroom : s.roomAfter 3)
    (hr : raiseAll (s.fetchOperand src).causes (s.fetchOperand src).st = .go u) (hv : (s.fetchOperand src).value = some v)
    (hpc : u.pc = s.pc) (hprog : u.prog = s.prog) :
    s.testAndSkip src bit skipsOn = .next { u with pc := s.skipPc (v.getLsbD bit.val = skipsOn) } := by
  have hu : u.roomAfter 3 := by unfold State.roomAfter State.pcAligned; rw [hpc]; exact hroom
  have hw : u.wordsAfter = s.wordsAfter := by unfold State.wordsAfter; rw [hpc, hprog]
  have hle := wordsAfter_le u
  unfold State.testAndSkip
  simp only [hr, hv, Flow.bind_go, Flow.outcome_go]
  unfold State.skipPc
  by_cases hb : v.getLsbD bit.val = skipsOn
  · rw [if_pos (beq_iff_eq.mpr hb), if_pos hb, u.advance_room _ (State.roomAfter_mono hu (by omega)), hw, hpc,
      Nat.mul_add]
  · rw [if_neg (mt beq_iff_eq.mp hb), if_neg hb, u.advance_room 1 (State.roomAfter_mono hu (by omega)), hpc]

/-- Settles O46: the read of the operand, then the test. -/
theorem bitTestSkips : Obligations.BitTestSkips := by
  intro s i src bit skipsOn hi hroom
  have hexec : exec i s = s.testAndSkip src bit skipsOn := by
    rcases hi with ⟨rfl, rfl⟩ | ⟨rfl, rfl⟩ <;> rfl
  obtain ⟨hcauses, n, hst⟩ := fetchOperand_frame s src
  rw [hexec]
  refine ⟨fun hc => ⟨fun v hp hv => ?_, fun hv => ?_, fun ea hp => ?_, fun r hr => by rw [hr]; rfl, fun r disp hr => ?_,
    fun ea hr => ?_⟩, fun hk hv => ?_⟩
  · have hs : (s.fetchOperand src).st = s := by
      cases src with
      | reg r => rfl
      | paged ea => exact absurd rfl (hp ea)
      | indirect r disp => rw [fetchOperand_quiet s _ (.inl ⟨r, disp, rfl⟩) hc]
      | direct ea => rw [fetchOperand_quiet s _ (.inr ⟨ea, rfl⟩) hc]
    exact testAndSkip_known hroom (by rw [hcauses, hc, hs]; rfl) hv rfl rfl
  · unfold State.testAndSkip
    simp only [hcauses, hc, hv, raiseAll, Flow.bind_go, Flow.outcome_fault]
  · subst hp
    refine ⟨_, testAndSkip_known (u := { s with draws := s.draws + 1 }) hroom (by rw [hcauses, hc]; rfl) rfl rfl rfl, ?_⟩
    unfold State.skipPc
    split
    · exact .inr rfl
    · exact .inl rfl
  · rw [fetchOperand_quiet s src (.inl ⟨r, disp, hr⟩) hc, hr, operandEa_indirect]
  · rw [fetchOperand_quiet s src (.inr ⟨ea, hr⟩) hc, hr, State.operandEa_direct]
  · obtain ⟨v, hv⟩ := Option.ne_none_iff_exists'.mp hv
    have hr := raiseAll_access_quiet (s.operandReadCauses src 0 true) { s with draws := n } (operandReadCauses_access s _ _ _)
      .none fun _ => hk
    rw [← hst, ← hcauses] at hr
    have hset (j : Nat) := accessBits_getLsbD (s.operandReadCauses src 0 true) j
    refine ⟨_, testAndSkip_known hroom hr hv (by rw [hst]) (by rw [hst]), ?_, fun ha => ?_, fun ha => ?_, fun j h2 h3 => ?_, ?_⟩
    · unfold State.skipPc
      split
      · exact .inr rfl
      · exact .inl rfl
    · show ((s.fetchOperand src).st.intcon1 ||| accessBits _).getLsbD 3 = true
      rw [hcauses, BitVec.getLsbD_or, hset, decide_eq_true (p := 3 = 3 ∧ _) ⟨rfl, ha⟩]
      simp
    · show ((s.fetchOperand src).st.intcon1 ||| accessBits _).getLsbD 2 = true
      rw [hcauses, BitVec.getLsbD_or, hset, decide_eq_true (p := 2 = 2 ∧ _) ⟨rfl, ha⟩]
      simp
    · show ((s.fetchOperand src).st.intcon1 ||| accessBits _).getLsbD j = _
      rw [hcauses, BitVec.getLsbD_or, hset, hst]
      simp [h2, h3]
    · rw [hst]

/-! ### MOV.D and TBLRDx -/

theorem setRegFree_frame (s : State) (i : Fin 16) :
    s.setRegFree i = { s with w := (s.setRegFree i).w, draws := s.draws + 1 } := rfl

theorem setRegFree_other (s : State) (i j : Fin 16) (h : j ≠ i) : (s.setRegFree i).reg j = s.reg j :=
  State.reg_setReg_other _ _ _ _ h

/-- MOV.D once its trap events and the events between its fetches have let the run go on. -/
theorem execMovD_loads {src : Operand} {dst : Fin 16} {x y z : State}
    (h1 : raiseAll (s.operandReadCauses src 0 true) s = .go x) (hm : x.meet = .go y)
    (h2 : raiseAll (s.operandReadCauses src 2 true) y = .go z) (hroom : s.roomAfter 1) (hpc : z.pc = s.pc)
    (hk : s.operandUnwritten src 0 true = false) (hk' : y.meetsUnwritten s src 2 true = false) :
    ∃ t, exec (.movD src dst) s = .next t ∧ (∀ i : Fin 16, i ≠ dst → i ≠ dst + 1 → t.reg i = z.reg i)
      ∧ t = { z with w := t.w, pc := s.pc + 2#24, draws := t.draws } := by
  refine ⟨{ (z.setRegFree dst).setRegFree (dst + 1) with pc := s.pc + 2#24 }, ?_, fun i hi hi' => ?_, rfl⟩
  · show execMovD src dst s = _
    unfold execMovD
    simp only [h1, hm, h2, hk, hk', Flow.bind_go, Bool.or_self, Bool.false_eq_true, ↓reduceIte]
    exact Flow.thenAdvance_room s _ hroom hpc
  · exact (setRegFree_other _ _ _ hi').trans (setRegFree_other _ _ _ hi)

/-- The trap events of both fetches, where none makes a hard trap conflict and no event comes between. -/
theorem movD_raises (s : State) (src : Operand) (hm : s.meanwhile = []) (hc : s.hardConflict .address = false) :
    ∃ x, raiseAll (s.operandReadCauses src 0 true) s = .go x ∧ x.meet = .go x ∧ x.mem = s.mem ∧ x.cfg = s.cfg
      ∧ raiseAll (s.operandReadCauses src 2 true) x = .go { s with
          intcon1 := s.intcon1 ||| accessBits (s.operandReadCauses src 0 true) ||| accessBits (s.operandReadCauses src 2 true) } := by
  refine ⟨_, raiseAll_access_quiet _ s (operandReadCauses_access s _ _ _) .none fun _ => hc, State.meet_idle _ hm, rfl, rfl,
    raiseAll_access_quiet _ _ (operandReadCauses_access s _ _ _) .none fun _ => ?_⟩
  rw [hardConflict_address_intcon1 s _ .none ?_]
  · exact hc
  · rw [BitVec.getLsbD_or, accessBits_getLsbD]
    simp

/-- Settles O45: the two fetches, then the loads. -/
theorem movDAndTblrdLoadRegisters : Obligations.MovDAndTblrdLoadRegisters := by
  intro s src dst hroom
  have access (extra : Nat) := operandReadCauses_access s src extra true
  refine ⟨fun extra => ?_, fun hm hk hk' => ⟨fun h1 h2 => ?_, fun hc => ?_⟩,
    fun es rest hm hk h1 h2 => ⟨fun u hu => ?_, fun u hu hread => ?_⟩, fun hm hc hun => ?_,
    ⟨_, Flow.thenAdvance_room s (s.setRegFree dst) hroom rfl⟩⟩
  · unfold State.operandUnwritten State.meetsUnwritten
    cases src with
    | reg r | paged ea => simp
    | indirect r disp | direct ea =>
      rw [Bool.and_eq_true, unwritten_word]
      simp
  · exact execMovD_loads (by rw [h1]; rfl) (State.meet_idle s hm) (by rw [h2]; rfl) hroom rfl hk hk'
  · obtain ⟨x, h1, hx, hmem, hcfg, h2⟩ := movD_raises s src hm hc
    obtain ⟨t, ht, hregs, hframe⟩ := execMovD_loads (dst := dst) h1 hx h2 hroom rfl hk
      ((meetsUnwritten_congr hmem hcfg s src 2 true).trans hk')
    have hset (j : Nat) : t.intcon1.getLsbD j = (s.intcon1.getLsbD j
        || (decide (j = 2 ∧ Cause.stack ∈ s.operandReadCauses src 0 true) || decide (j = 3 ∧ Cause.address ∈ s.operandReadCauses src 0 true))
        || (decide (j = 2 ∧ Cause.stack ∈ s.operandReadCauses src 2 true) || decide (j = 3 ∧ Cause.address ∈ s.operandReadCauses src 2 true))) := by
      rw [hframe]
      show (s.intcon1 ||| accessBits _ ||| accessBits _).getLsbD j = _
      rw [BitVec.getLsbD_or, BitVec.getLsbD_or, accessBits_getLsbD, accessBits_getLsbD]
    refine ⟨t, ht, hregs, fun ha => ?_, fun ha => ?_, fun j h2 h3 => ?_, ?_⟩
    · refine (hset 3).trans ?_
      rcases ha with ha | ha <;> simp [ha]
    · refine (hset 2).trans ?_
      rcases ha with ha | ha <;> simp [ha]
    · rw [hset j]
      simp [h2, h3]
    · rw [hframe]
  · have hmeet : s.meet = .cut u := by unfold State.meet; rw [hm]; exact hu
    show execMovD src dst s = _
    unfold execMovD
    simp only [h1, hmeet, raiseAll, Flow.bind_go, Flow.bind_cut, Flow.thenAdvance_cut]
  · have hmeet : s.meet = .go u := by unfold State.meet; rw [hm]; exact hu
    have hunread : u.meetsUnwritten s src 2 true = false := by
      rw [← Bool.not_eq_true]
      unfold State.meetsUnwritten
      rcases hread with ⟨r, rfl⟩ | ⟨ea, rfl⟩ | hread
      · exact nofun
      · exact nofun
      · cases src with
        | reg r | paged ea => exact nofun
        | indirect r disp | direct ea =>
          rw [Bool.and_eq_true, unwritten_word]
          exact fun h => hread h.2
    exact execMovD_loads (by rw [h1]; rfl) hmeet (by rw [h2]; rfl) hroom (happen_go hu).pc hk hunread
  · obtain ⟨x, h1, hx, hmem, hcfg, h2⟩ := movD_raises s src hm hc
    have hu : (s.operandUnwritten src 0 true || x.meetsUnwritten s src 2 true) = true := by
      rw [meetsUnwritten_congr hmem hcfg, Bool.or_eq_true]; exact hun
    show execMovD src dst s = _
    unfold execMovD
    simp only [h1, hx, h2, hu, Flow.bind_go, ↓reduceIte, Flow.thenAdvance_fault]

end Sys2Proof.Machine
end

section
/-! Instructions outside the table and the other agents (spec/60_exceptions.md R200, R264 to R283): their trap events. -/

namespace Sys2Proof.Machine

variable {s t u : State}

/-! ### The DMA controller -/

section
variable (s : State) (ea : Word) (wide : Bool) (v : Word) (hd : s.cfg.hasDma = true)

theorem dmaStore_absent (h : s.cfg.hasDma = false) : s.dmaStore ea wide v = .go s := by
  unfold State.dmaStore; rw [h]; rfl

include hd

theorem dmaStore_unimplemented (hi : s.dataImplemented ea.toNat = false) :
    s.dmaStore ea wide v = .go { s with intcon3 := s.intcon3 ||| 0x0020#16 } := by
  unfold State.dmaStore; rw [hd, hi]; rfl

theorem dmaStore_memory (hi : s.dataImplemented ea.toNat = true) (hr : s.registerAt ea.toNat = none) :
    s.dmaStore ea wide v = .go (s.store ea wide v) := by
  unfold State.dmaStore; rw [hd, hi, hr]; rfl

theorem dmaStore_register (r : RegName) (hr : s.registerAt ea.toNat = some r) :
    s.dmaStore ea wide v = (s.writeRegAt r ea wide v).bind fun t => .go { t with lag := s.lag }.dropCleared := by
  have hi : s.dataImplemented ea.toNat = true := by unfold State.dataImplemented; rw [hr]; exact Bool.or_true _
  unfold State.dmaStore; rw [hd, hi, hr]; rfl

end

theorem half_toNat (half : BitVec 15) : (half ++ 0#1).toNat = 2 * half.toNat := by
  rw [BitVec.toNat_append]
  simp [Nat.shiftLeft_eq, Nat.mul_comm]

theorem low_byte (v : Byte) : (v.zeroExtend 16).extractLsb' 0 8 = v := by
  apply word_ext
  intro j hj
  have : j < 16 := by omega
  simp [hj, this]

/-! ### The end of a DO loop -/

theorem setDoLevel_keeps (s : State) (l j : Nat) (hj : j < 8 ∨ 11 ≤ j) :
    (s.setDoLevel l).corcon.getLsbD j = s.corcon.getLsbD j := by
  rw [State.setDoLevel_corcon]
  refine mergeBits_keeps _ _ _ _ ?_
  by_cases h16 : j < 16
  · rcases mem_range16 h16 with h | h | h | h | h | h | h | h | h | h | h | h | h | h | h | h <;> subst h <;>
      first | rfl | omega
  · exact BitVec.getLsbD_of_ge _ _ (Nat.le_of_not_lt h16)

/-- Settles O59: each agent's event. -/
theorem outsideAgentsRaiseTraps : Obligations.OutsideAgentsRaiseTraps := by
  intro s ea v half u off
  have hn := half_toNat half
  refine ⟨fun hd => ⟨?_, ?_, fun hi => ?_, fun hi => ?_, fun hi hr => ?_, fun hi hr => ?_, fun r hr => ?_, fun r hr => ?_⟩,
    fun hu hi => ?_, fun h => ?_, fun hc => ?_, fun hp hc => ?_, fun hd => ?_, fun h => ?_, fun hp hl => ?_, ?_⟩
  · unfold Event.apply; simp only [hd, ↓reduceIte]; rfl
  · unfold Event.apply; simp only [hd, ↓reduceIte]; rfl
  · exact dmaStore_unimplemented s ea false _ hd hi
  · exact dmaStore_unimplemented s _ true u hd (by rw [hn]; exact hi)
  · refine (dmaStore_memory s ea false _ hd hi hr).trans ?_
    unfold State.store
    rw [if_pos hi, low_byte]
    rfl
  · refine (dmaStore_memory s _ true u hd (by rw [hn]; exact hi) (by rw [hn]; exact hr)).trans ?_
    unfold State.store
    rw [if_pos (by rw [hn]; exact hi), if_pos rfl, ← hn]
    rfl
  · exact dmaStore_register s _ true u hd r (by rw [hn]; exact hr)
  · refine (dmaStore_register s ea false _ hd r hr).trans ?_
    unfold State.writeRegAt byteMask
    cases ea.getLsbD 0 <;> rfl
  · unfold Event.apply; simp only [hu, hi, Bool.not_true, Bool.or_self, Bool.false_eq_true, ↓reduceIte]; rfl
  · unfold Event.apply
    rcases h with h | h
    · simp only [h, Bool.not_false, Bool.true_or, ↓reduceIte]
    · simp only [h, Bool.or_true, ↓reduceIte]
  · refine (raiseHard_quiet (s := { s with osccon := setBit s.osccon 3 true }) (h := .oscillator) rfl hc).trans ?_
    rfl
  · exact ⟨_, raiseHard_conflict { s with osccon := setBit s.osccon 3 true } .oscillator .none hp hc,
      State.deviceReset_justReset _ true, State.deviceReset_trapr _⟩
  · refine ⟨?_, dmaStore_absent s ea false _ hd, dmaStore_absent s _ true u hd, ?_⟩ <;>
      unfold Event.apply <;> simp only [hd, Bool.false_eq_true, ↓reduceIte]
  · unfold Event.apply
    simp only
    split
    next hp =>
      refine congrArg Flow.go ?_
      unfold State.endLoop
      exact if_pos (h.resolve_left fun hn => hn hp)
    · rfl
  · have hlt : s.doLevel < 8 := (s.corcon.extractLsb' 8 3).isLt
    refine ⟨s.endLoop, by unfold Event.apply; simp only [hp, ↓reduceIte], ?_⟩
    unfold State.endLoop
    rw [if_neg hl]
    by_cases h1 : s.doLevel = 1
    · rw [if_pos h1, if_pos h1]
      refine ⟨?_, ?_, fun j hj => ?_, fun j hj => setDoLevel_keeps _ _ j hj, rfl⟩
      · rw [State.setDoLevel_doLevel, h1]
      · exact (setBit_getLsbD s.sr 9 9 false (by omega)).trans (if_pos rfl)
      · exact (setBit_getLsbD s.sr 9 j false (by omega)).trans (if_neg hj)
    · rw [if_neg h1, if_neg h1]
      refine ⟨?_, rfl, fun j hj => rfl, fun j hj => setDoLevel_keeps _ _ j hj, rfl⟩
      rw [State.setDoLevel_doLevel]; omega
  · exact ⟨_, rfl, s.deviceReset_justReset false, s.deviceReset_keeps_trapr, rfl, rfl, rfl, rfl⟩

end Sys2Proof.Machine
end

section
/-! Instructions outside the table (spec/20_memory.md R82, R91 to R95; spec/41_referenced_instructions.md R162 to R164): one act, its
trap events and its effect. -/

namespace Sys2Proof.Machine

variable {s t u : State}

/-! ### One act -/

/-- An act whose trap events let the run go on. -/
theorem execOutside_act {act : CpuAct} {x y : State} (hroom : s.roomAfter 1)
    (hr : raiseAll (act.causes s) s = .go x)
    (he : act.effect s ((act.causes s).contains .address) .none x = .go y) (hpc : y.pc = s.pc) :
    execOutside [act] s = if act.readsUnwritten s s then .fault .readOfUnwrittenMemory else .next { y with pc := s.pc + 2#24 } := by
  rw [execOutside_one, hr, Flow.bind_go, he, Flow.bind_go]
  split
  · rfl
  · exact Flow.thenAdvance_room s y hroom hpc

/-- What an accumulator event leaves alone. -/
def AccFrame (acc : AccName) (s t : State) : Prop :=
  match acc with
  | .a => t = { s with accA := t.accA, sr := t.sr, intcon1 := t.intcon1, pc := s.pc + 2#24, draws := t.draws }
  | .b => t = { s with accB := t.accB, sr := t.sr, intcon1 := t.intcon1, pc := s.pc + 2#24, draws := t.draws }

theorem accChanged_accFrame (s : State) (acc : AccName) (v : Word) :
    AccFrame acc s { State.accChanged { s with intcon1 := v } acc with pc := s.pc + 2#24 } := by
  cases acc <;> rfl

/-- An accumulator event: its detail flag and MATHERR where its cause's enable is 1 and saturation does not rule it out (R266). -/
theorem execOutside_acc (act : CpuAct) (acc : AccName) (d : MathDetail) (can enabled : Bool) (hroom : s.roomAfter 1)
    (hdsp : s.cfg.hasDsp = true)
    (hcauses : act.causes s = if can then (if enabled then [.math d] else []) else [])
    (heff : ∀ b x, act.effect s b .none x = .go (if x.cfg.hasDsp then x.accChanged acc else x))
    (hread : act.readsUnwritten s s = false) :
    ∃ t, execOutside [act] s = .next t
      ∧ t.intcon1 = (if can = true ∧ enabled = true then s.intcon1 ||| mathBits d else s.intcon1) ∧ AccFrame acc s t := by
  generalize hv : (if can = true ∧ enabled = true then s.intcon1 ||| mathBits d else s.intcon1) = v
  have hr : raiseAll (act.causes s) s = .go { s with intcon1 := v } := by
    rw [hcauses, ← hv]
    cases can <;> cases enabled <;> rfl
  have he := heff ((act.causes s).contains .address) { s with intcon1 := v }
  rw [if_pos hdsp] at he
  have hrun := execOutside_act hroom hr he (by cases acc <;> rfl)
  rw [hread, if_neg (by decide)] at hrun
  exact ⟨_, hrun, by cases acc <;> rfl, accChanged_accFrame s acc v⟩

/-- An address error whose flag is 0 and that makes a hard trap conflict resets the device, whatever else the access raises. -/
theorem raiseAll_access_conflict {cs : List Cause} {e : Earlier} (hc : AccessCauses cs) (ha : Cause.address ∈ cs)
    (hp : s.trapPending .address = false) (hk : s.hardConflict .address e = true) :
    ∃ v, raiseAll cs s e = .cut (State.deviceReset { s with intcon1 := v } true) := by
  induction cs generalizing s with
  | nil => cases ha
  | cons c cs ih =>
    rcases hc c List.mem_cons_self with rfl | rfl
    · refine ih (s := { s with intcon1 := s.intcon1 ||| 0x0004#16 }) (fun d hd => hc d (List.mem_cons_of_mem _ hd))
        ((List.mem_cons.mp ha).resolve_left (by decide)) ?_ ?_
      · show (s.intcon1 ||| 0x0004#16).getLsbD 3 = false
        rw [BitVec.getLsbD_or, show s.intcon1.getLsbD 3 = false from hp]; rfl
      · rw [hardConflict_address_intcon1 s _ e (by rw [BitVec.getLsbD_or]; simp)]
        exact hk
    · refine ⟨s.intcon1, ?_⟩
      show (raiseHard .address s e).bind _ = _
      rw [raiseHard_conflict s .address e hp hk]
      rfl

/-- Settles O58: by the acts of which the instructions consist. -/
theorem outsideInstructionsRaiseTraps : Obligations.OutsideInstructionsRaiseTraps := by
  refine ⟨fun s hroom hdsp => ?_, fun s space ea hroom hc hbad => ?_, fun s space ea hroom heven himpl => ?_,
    fun s src wide hroom => ⟨fun hc => ?_, fun ha hp hc => ?_⟩⟩
  · have overflow (acc : AccName) : s.canOverflow acc = true ↔ s.saturates31 acc = false := by
      unfold State.canOverflow; rw [hdsp]; simp
    have catastrophic (acc : AccName) : s.canOverflowCatastrophically acc = true ↔ s.saturates acc = false := by
      unfold State.canOverflowCatastrophically; rw [hdsp]; simp
    have acc (act : CpuAct) (n : AccName) (d : MathDetail) (can enabled : Bool) := execOutside_acc act n d can enabled hroom hdsp
    have ovA := acc (.accOverflow .a) .a .ovA _ _ rfl (fun _ _ => rfl) rfl
    have ovB := acc (.accOverflow .b) .b .ovB _ _ rfl (fun _ _ => rfl) rfl
    have covA := acc (.accCatastrophic .a) .a .covA _ _ rfl (fun _ _ => rfl) rfl
    have covB := acc (.accCatastrophic .b) .b .covB _ _ rfl (fun _ _ => rfl) rfl
    simp only [overflow] at ovA ovB
    simp only [catastrophic] at covA covB
    exact ⟨ovA, ovB, covA, covB⟩
  · have hcauses : (CpuAct.macFetch space ea).causes s = [.address] := by
      refine if_pos ?_
      rw [Bool.or_eq_true, Bool.not_eq_true']; exact hbad
    have hr : raiseAll ((CpuAct.macFetch space ea).causes s) s = .go { s with intcon1 := s.intcon1 ||| 0x0008#16 } := by
      rw [hcauses]
      exact raiseAll_access_quiet [.address] s (fun c h => .inr (List.mem_singleton.mp h)) .none fun _ => hc
    have hread : (CpuAct.macFetch space ea).readsUnwritten s s = false := by
      show (!ea.getLsbD 0 && s.dataImplementedIn space ea.toNat && _) = false
      rcases hbad with h | h <;> simp [h]
    rw [execOutside_act hroom hr rfl rfl, hread, if_neg (by decide)]
  · have hcauses : (CpuAct.macFetch space ea).causes s = [] := by
      refine if_neg ?_
      rw [heven, himpl]; decide
    have hread : (CpuAct.macFetch space ea).readsUnwritten s s = true ↔ s.readWord ea = none := by
      show (!ea.getLsbD 0 && s.dataImplementedIn space ea.toNat && s.unwritten ea true) = true ↔ _
      rw [heven, himpl, ← unwritten_word]
      exact Iff.rfl
    rw [execOutside_act (x := s) hroom (by rw [hcauses]; rfl) rfl rfl]
    exact if_congr hread rfl rfl
  · have hr := raiseAll_access_quiet ((CpuAct.read src wide).causes s) s (operandReadCauses_access s _ _ _) .none hc
    rw [execOutside_act hroom hr rfl rfl]
    refine if_congr Iff.rfl rfl (congrArg (fun x => Host.Outcome.next { s with pc := s.pc + 2#24, intcon1 := x }) ?_)
    exact (BitVec.or_assoc _ _ _).symm
  · obtain ⟨v, hr⟩ := raiseAll_access_conflict (operandReadCauses_access s src 0 wide) ha hp hc
    refine ⟨_, ?_, State.deviceReset_justReset { s with intcon1 := v } true, State.deviceReset_trapr _⟩
    rw [execOutside_one]
    exact congrArg (fun f : Flow => (f.bind _).thenAdvance) hr

end Sys2Proof.Machine
end

section
/-! Running the instruction at `pc` (spec/60_exceptions.md R231, spec/20_memory.md R106): what the fetch finds, and what a step makes of
it. -/

namespace Sys2Proof.Machine

variable {s s1 s2 t u : State} {during : List (List Event)}

/-! ### The step that runs -/

theorem step_run (h : s.nextAction = (.run during, s1)) : step s = runNext during s1 := by unfold step; rw [h]; rfl

theorem runNext_cut (h : s.begin during = .cut u) : runNext during s = .next u.settle := by unfold runNext; rw [h]

theorem runNext_go (h : s.begin during = .go u) : runNext during s = retired (runFetched s.fetch u) State.settle := by
  unfold runNext; rw [h]

/-! ### The fetch -/

theorem fetch_unimplemented (h : s.progImplemented s.pc.toNat = false) : s.fetch = .unimplemented := by
  unfold State.fetch; rw [h]; rfl

theorem fetch_instr {i : Instr} (hp : s.progImplemented s.pc.toNat = true)
    (h : (∃ w rest, cellGet s.prog s.pc.toNat = some (.word w) ∧ decode (s.wordsAt s.pc.toNat) = .ok i rest)
      ∨ (cellGet s.prog s.pc.toNat = some (.abstr i) ∧ i.wellFormed = true ∧ i.encoded = false)) : s.fetch = .instr i := by
  unfold State.fetch
  rw [if_pos hp]
  rcases h with ⟨w, rest, hc, hd⟩ | ⟨hc, hwf, henc⟩
  · simp only [hc, hd]
  · simp only [hc, hwf, henc, Bool.not_false, Bool.and_self, ↓reduceIte]

theorem fetch_outside {acts : List CpuAct} (hp : s.progImplemented s.pc.toNat = true)
    (h : cellGet s.prog s.pc.toNat = some (.outside acts)) : s.fetch = .outside acts := by
  unfold State.fetch
  rw [if_pos hp]
  simp only [h]

/-- Settles O7: the fetch, the instruction's effect, and what completes around it. -/
theorem stepRunsInstructionAtPc : Obligations.StepRunsInstructionAtPc := by
  intro s s1 during hn
  refine ⟨fun hm => s1.begin_nil hm, fun es rest hd => by subst hd; rfl, fun u => rfl,
    fun u hu => (step_run hn).trans (runNext_cut hu), fun s2 hb hp => ⟨fun i hi => ?_, fun acts ha => ?_⟩⟩
  · have hrun : step s = retired (retired (exec i s2) (·.retire i s2.pc)) State.settle := by
      rw [step_run hn, runNext_go hb, fetch_instr hp hi]; rfl
    exact ⟨fun t h => by rw [hrun, h]; rfl, fun f h => by rw [hrun, h]; rfl, fun r h => by rw [hrun, h]; rfl⟩
  · have hrun : step s = retired (retired (execOutside acts s2) (·.retireOutside s2.pc)) State.settle := by
      rw [step_run hn, runNext_go hb, fetch_outside hp ha]; rfl
    exact ⟨fun t h => by rw [hrun, h]; rfl, fun f h => by rw [hrun, h]; rfl, fun r h => by rw [hrun, h]; rfl⟩

/-- Settles O33: the fetch finds no instruction, and the address error is raised where its flag is 0. -/
theorem fetchFromUnimplementedRaisesAddressError : Obligations.FetchFromUnimplementedRaisesAddressError := by
  intro s s1 s2 during hn hb hp
  have hpc : s.nextAction.2.pc = s.pc := by rw [s.nextAction_frame]
  rw [hn] at hpc
  have hrun : step s = retired s2.badFetch State.settle := by
    rw [step_run hn, runNext_go hb, fetch_unimplemented hp]; rfl
  refine ⟨(State.begin_pc hb).trans hpc, fun h => ?_, fun h hl => ?_, fun h hl => ?_⟩
  · have hbad : s2.badFetch = (raiseHard .address s2 .none).outcome := by
      unfold State.badFetch; rw [if_neg (by rw [h]; decide)]; rfl
    rcases raiseHard_clear s2 .address .none h with ⟨hr, hc⟩ | ⟨hr, hc⟩
    · refine ⟨_, by rw [hrun, hbad, hr]; rfl, .inr ⟨hc, ?_, rfl⟩⟩
      show (s2.intcon1 ||| 0x0008#16).getLsbD 3 = true
      rw [BitVec.getLsbD_or]; simp
    · exact ⟨_, by rw [hrun, hbad, hr]; rfl, .inl ⟨hc, State.justReset_settle (s2.deviceReset_justReset true), s2.deviceReset_trapr⟩⟩
  · have hbad : s2.badFetch = .next s2 := by
      unfold State.badFetch
      rw [if_pos h, if_neg (show ¬ s2.trapLevel .address ≤ s2.cpuIpl from Nat.not_le_of_lt hl)]
    rw [hrun, hbad]; rfl
  · have hbad : s2.badFetch = .fault .stuckAtUnimplementedPc := by
      unfold State.badFetch
      rw [if_pos h, if_pos (show s2.trapLevel .address ≤ s2.cpuIpl from hl)]
    rw [hrun, hbad]; rfl

end Sys2Proof.Machine
end

section
/-! Data writes of instructions outside the table and of the entry sequence (spec/20_memory.md R91 to R98): what they store, and what
inhibits them. -/

namespace Sys2Proof.Machine

variable {s t u x : State}

/-! ### One data write -/

/-- A data write that raises no address error, once its trap events have set their flags. -/
def State.stackFlagged (s : State) (cs : List Cause) : State :=
  { s with intcon1 := if Cause.stack ∈ cs then s.intcon1 ||| 0x0004#16 else s.intcon1 }

theorem raiseAll_stack {cs : List Cause} (hc : AccessCauses cs) (ha : Cause.address ∉ cs) :
    raiseAll cs s = .go (s.stackFlagged cs) := by
  refine (raiseAll_access_quiet cs s hc .none fun h => absurd h ha).trans (congrArg (fun b => Flow.go { s with intcon1 := b }) ?_)
  unfold accessBits
  rw [if_neg ha, BitVec.or_zero]
  split
  · rfl
  · rw [BitVec.or_zero]

/-- The effect of a write through memory. -/
theorem writeAct_effect {dst : Operand} (hd : (∃ i disp, dst = .indirect i disp) ∨ ∃ ea, dst = .direct ea) (start : State)
    (wide : Bool) (v : Word) (e : Earlier) :
    (CpuAct.write dst wide v).effect start false e s = s.dataWrite (start.operandEa dst 0) wide v e := by
  rcases hd with ⟨i, disp, rfl⟩ | ⟨ea, rfl⟩ <;> rfl

/-- A write whose access raises no address error. -/
theorem execOutside_write {dst : Operand} (hd : (∃ i disp, dst = .indirect i disp) ∨ ∃ ea, dst = .direct ea) {wide : Bool}
    {v : Word} (ha : Cause.address ∉ s.operandWriteCauses dst wide) :
    execOutside [.write dst wide v] s
      = ((s.stackFlagged (s.operandWriteCauses dst wide)).dataWrite (s.operandEa dst 0) wide v).thenAdvance := by
  have hn : ((CpuAct.write dst wide v).causes s).contains .address = false := by
    rw [← Bool.not_eq_true, List.contains_iff_mem]; exact ha
  rw [execOutside_one, hn]
  show ((raiseAll (s.operandWriteCauses dst wide) s).bind _).thenAdvance = _
  rw [raiseAll_stack (operandWriteCauses_access s dst wide) ha, Flow.bind_go, writeAct_effect hd]
  cases State.dataWrite _ _ _ _ _ <;> rfl

/-- What a data write to memory stores, byte by byte: the low byte first (R89, D13). -/
theorem store_readByte {ea v : Word} {wide : Bool} (hwf : Memory.wf s.mem = true) (hi : s.dataImplemented ea.toNat = true)
    (he : wide = true → ea.getLsbD 0 = false) (a : Nat) :
    (s.store ea wide v).readByte a = if a = ea.toNat then some (v.extractLsb' 0 8)
      else if wide = true ∧ a = ea.toNat + 1 then some (v.extractLsb' 8 8) else s.readByte a := by
  unfold State.store
  rw [if_pos hi]
  cases wide
  · rw [if_neg (by decide), State.readByte_writeByte _ _ _ _ hwf]
    simp
  · rw [if_pos rfl, State.readByte_writeWord s ea v a hwf (he rfl)]
    simp

/-- A write of a byte of a register. -/
theorem dataWrite_byte {ea v : Word} {r : RegName} (h : s.registerAt ea.toNat = some r) (e : Earlier) :
    s.dataWrite ea false v e = (s.writeReg r (if ea.getLsbD 0 then 0xFF00#16 else 0x00FF#16)
      (if ea.getLsbD 0 then v <<< 8 else v) e).bind fun x => .go x.dropCleared := by
  unfold State.dataWrite
  rw [h]
  unfold State.writeRegAt byteMask
  cases ea.getLsbD 0 <;> rfl

theorem registerAt_unimplemented {a : Nat} (h : s.dataImplemented a = false) : s.registerAt a = none := by
  unfold State.dataImplemented at h
  rw [Bool.or_eq_false_iff, Option.isSome_eq_false_iff] at h
  exact Option.isNone_iff_eq_none.mp h.2

/-- A word write that raises no address error is at an even address. -/
theorem write_even {dst : Operand} (hd : (∃ i disp, dst = .indirect i disp) ∨ ∃ ea, dst = .direct ea) {wide : Bool}
    (ha : Cause.address ∉ s.operandWriteCauses dst wide) (hw : wide = true) : (s.operandEa dst 0).getLsbD 0 = false := by
  have hn : Cause.address ∉ s.writeCauses (s.operandEa dst 0) wide := fun h => ha (by
    rcases hd with ⟨i, disp, rfl⟩ | ⟨ea, rfl⟩ <;> exact List.mem_append_right _ h)
  rw [address_mem_writeCauses, not_or] at hn
  exact Bool.not_eq_true _ ▸ fun h => hn.1 ⟨hw, h⟩

/-- A software write that goes on leaves `pc`. -/
theorem writeReg_pc {r : RegName} {mask v : Word} {e : Earlier} (h : s.writeReg r mask v e = .go u) : u.pc = s.pc :=
  (State.writeReg_wrote h).cpu.pc

/-! ### Events between two writes -/

/-- The first act of several, where it raises no trap event. -/
theorem runActs_first {act : CpuAct} {acts : List CpuAct} (hacts : acts ≠ []) {y : State} {inhibited : Bool}
    (hc : act.causes s = []) (he : act.effect s inhibited .none s = .go y) (hr : act.readsUnwritten s s = false)
    (hh : s.hardSince y = []) :
    runActs s inhibited [] false (act :: acts) s = y.meet.bind (runActs s inhibited [] false acts) := by
  have hrun : act.run s inhibited [] s = .go y := by
    show (raiseAll (act.causes s) s .none).bind _ = _
    rw [hc]
    exact he
  have hn : acts.isEmpty = false := by
    cases acts with
    | nil => exact absurd rfl hacts
    | cons a as => rfl
  show (act.run s inhibited [] s).bind _ = _
  rw [hrun]
  show (if acts.isEmpty then Flow.go y else y.meet).bind (runActs s inhibited ([] ++ s.hardSince y)
    (false || act.readsUnwritten s s) acts) = _
  rw [hn, hh, hr]
  rfl

/-- A direct write finds its address and its checks in the device. -/
theorem directCauses_congr (hc : t.cfg = s.cfg) (ea : Word) (wide : Bool) :
    t.operandWriteCauses (.direct ea) wide = s.operandWriteCauses (.direct ea) wide := by
  show [] ++ t.writeCauses _ wide = [] ++ s.writeCauses _ wide
  unfold State.writeCauses State.dataImplemented State.registerAt
  rw [hc]
  rfl

/-- The last act depends on where the instruction began by its address and its checks alone. -/
theorem runActs_directWrite (hc : u.cfg = s.cfg) {ea v : Word} {wide : Bool} {inhibited : Bool} {earlier : List Trap} :
    runActs s inhibited earlier false [.write (.direct ea) wide v] x
      = runActs u inhibited earlier false [.write (.direct ea) wide v] x := by
  have hcauses : CpuAct.causes s (.write (.direct ea) wide v) = CpuAct.causes u (.write (.direct ea) wide v) :=
    directCauses_congr hc.symm ea wide
  unfold runActs CpuAct.run
  rw [hcauses]
  rfl

/-! ### An instruction whose writes are inhibited -/

/-- What an instruction outside the table changes where its data space writes are inhibited (R95): no memory, and of the trap
flags only soft ones and ADDRERR, whose event makes no hard trap conflict. -/
structure Inhibited (s x : State) : Prop where
  rest : x = { s with w := x.w, sr := x.sr, accA := x.accA, accB := x.accB, intcon1 := x.intcon1, draws := x.draws }
  level : x.cpuIpl = s.cpuIpl
  oscillator : x.trapPending .oscillator = s.trapPending .oscillator
  stays : s.trapPending .address = true → x.trapPending .address = true
  address : x.trapPending .address = true → s.trapPending .address = true ∨ s.hardConflict .address = false

theorem Inhibited.refl (s : State) : Inhibited s s := ⟨rfl, rfl, rfl, id, .inl⟩

/-- Before the address error is pending, its event makes a conflict exactly where it does at the start. -/
theorem Inhibited.conflict (h : Inhibited s x) (hp : x.trapPending .address = false) :
    x.hardConflict .address = s.hardConflict .address := by
  have hcfg : x.cfg = s.cfg := by rw [h.rest]
  have hgeneric : x.trapPending .genericHard = s.trapPending .genericHard := by
    show x.intcon4.getLsbD 0 = _
    rw [h.rest]; rfl
  have hs : s.trapPending .address = false := by
    rw [← Bool.not_eq_true] at hp ⊢; exact mt h.stays hp
  have same (t : Trap) (ht : trapIsSoft t = false) : x.trapPending t = s.trapPending t := by
    cases t with
    | oscillator => exact h.oscillator
    | address => rw [hp, hs]
    | genericHard => exact hgeneric
    | stack | math | dmac | genericSoft => cases ht
  rw [Bool.eq_iff_iff]
  exact ⟨hardConflict_mono rfl hcfg h.level fun t ht hk => (same t ht).symm.trans hk,
    hardConflict_mono rfl hcfg.symm h.level.symm fun t ht hk => (same t ht).trans hk⟩

/-- A change of registers, accumulators and status flags. -/
theorem Inhibited.of_frame (h : Inhibited s x)
    (hu : u = { x with w := u.w, sr := u.sr, accA := u.accA, accB := u.accB, draws := u.draws })
    (hl : u.cpuIpl = x.cpuIpl) : Inhibited s u := by
  have h1 : u.intcon1 = x.intcon1 := by rw [hu]
  have hp (t : Trap) (ht : u.trapPending t = u.intcon1.getLsbD 1 ∧ x.trapPending t = x.intcon1.getLsbD 1
      ∨ u.trapPending t = u.intcon1.getLsbD 3 ∧ x.trapPending t = x.intcon1.getLsbD 3) : u.trapPending t = x.trapPending t := by
    rcases ht with ⟨e, e'⟩ | ⟨e, e'⟩ <;> rw [e, e', h1]
  have ha := hp .address (.inr ⟨rfl, rfl⟩)
  exact ⟨by rw [hu, h.rest], hl.trans h.level, (hp .oscillator (.inl ⟨rfl, rfl⟩)).trans h.oscillator,
    fun k => ha.trans (h.stays k), fun k => h.address (ha.symm.trans k)⟩

/-- A soft trap event of an act. -/
theorem Inhibited.soft (h : Inhibited s x) {m : Word} (h1 : m.getLsbD 1 = false) (h3 : m.getLsbD 3 = false) :
    Inhibited s { x with intcon1 := x.intcon1 ||| m }
      ∧ State.trapPending { x with intcon1 := x.intcon1 ||| m } .address = x.trapPending .address := by
  have ha : (x.intcon1 ||| m).getLsbD 3 = x.intcon1.getLsbD 3 := by rw [BitVec.getLsbD_or, h3, Bool.or_false]
  have ho : (x.intcon1 ||| m).getLsbD 1 = x.intcon1.getLsbD 1 := by rw [BitVec.getLsbD_or, h1, Bool.or_false]
  exact ⟨⟨by rw [h.rest], h.level, ho.trans h.oscillator, fun k => ha.trans (h.stays k), fun k => h.address (ha.symm.trans k)⟩, ha⟩

/-- What ends such an instruction early. -/
def ConflictReset (s z : State) : Prop :=
  z.mem = s.mem ∧ s.trapPending .address = false ∧ s.hardConflict .address = true ∧ z.justReset ∧ z.rcon.getLsbD 15 = true

/-- The trap events an act can raise. -/
def ActCause (c : Cause) : Prop := c = .stack ∨ c = .address ∨ ∃ d, c = .math d

theorem mathBits_soft (d : MathDetail) : (mathBits d).getLsbD 1 = false ∧ (mathBits d).getLsbD 3 = false := by cases d <;> decide

/-- The trap events of one act. -/
theorem Inhibited.raiseAll {cs : List Cause} {e : Earlier} (hc : ∀ c ∈ cs, ActCause c) (h : Inhibited s x)
    (he : e = .none ∨ x.trapPending .address = true) :
    (∃ y, raiseAll cs x e = .go y ∧ Inhibited s y ∧ (x.trapPending .address = true → y.trapPending .address = true)
        ∧ (Cause.address ∈ cs → y.trapPending .address = true))
      ∨ ∃ z, raiseAll cs x e = .cut z ∧ ConflictReset s z := by
  induction cs generalizing x with
  | nil => exact .inl ⟨x, rfl, h, id, nofun⟩
  | cons c cs ih =>
    have hcs : ∀ d ∈ cs, ActCause d := fun d hd => hc d (List.mem_cons_of_mem _ hd)
    have soft (m : Word) (hm : m.getLsbD 1 = false ∧ m.getLsbD 3 = false) (hn : c ≠ .address)
        (hr : Machine.raiseAll (c :: cs) x e = Machine.raiseAll cs { x with intcon1 := x.intcon1 ||| m } e) :
        (∃ y, Machine.raiseAll (c :: cs) x e = .go y ∧ Inhibited s y
            ∧ (x.trapPending .address = true → y.trapPending .address = true)
            ∧ (Cause.address ∈ c :: cs → y.trapPending .address = true))
          ∨ ∃ z, Machine.raiseAll (c :: cs) x e = .cut z ∧ ConflictReset s z := by
      obtain ⟨hx, hp⟩ := h.soft hm.1 hm.2
      rw [hr]
      refine (ih hcs hx (he.imp id hp.trans)).imp (fun ⟨y, hy, hi, hst, ha⟩ => ⟨y, hy, hi, fun k => hst (hp.trans k), fun k => ha ?_⟩) id
      exact (List.mem_cons.mp k).resolve_left (Ne.symm hn)
    rcases hc c List.mem_cons_self with rfl | rfl | ⟨d, rfl⟩
    · exact soft 0x0004#16 (by decide) (by decide) rfl
    · have hr (y : State) (hy : raiseHard .address x e = .go y) :
          Machine.raiseAll (.address :: cs) x e = Machine.raiseAll cs y e := by
        show (raiseHard .address x e).bind _ = _
        rw [hy]; rfl
      have goes {y : State} (hy : raiseHard .address x e = .go y) (hi : Inhibited s y) (hp : y.trapPending .address = true) :
          (∃ y, Machine.raiseAll (.address :: cs) x e = .go y ∧ Inhibited s y
              ∧ (x.trapPending .address = true → y.trapPending .address = true)
              ∧ (Cause.address ∈ .address :: cs → y.trapPending .address = true))
            ∨ ∃ z, Machine.raiseAll (.address :: cs) x e = .cut z ∧ ConflictReset s z := by
        rw [hr y hy]
        exact (ih hcs hi (.inr hp)).imp (fun ⟨z, hz, hi', hst, _⟩ => ⟨z, hz, hi', fun _ => hst hp, fun _ => hst hp⟩) id
      cases hp : x.trapPending .address
      · obtain rfl := he.resolve_right (by rw [hp]; decide)
        rcases raiseHard_clear x .address .none hp with ⟨hy, hk⟩ | ⟨hz, hk⟩
        · have ha : (x.intcon1 ||| 0x0008#16).getLsbD 3 = true := by rw [BitVec.getLsbD_or]; simp
          have ho : (x.intcon1 ||| 0x0008#16).getLsbD 1 = x.intcon1.getLsbD 1 := by rw [BitVec.getLsbD_or]; simp
          refine hp ▸ goes hy ⟨?_, h.level, ho.trans h.oscillator, fun _ => ha, fun _ => .inr ((h.conflict hp).symm.trans hk)⟩ ha
          exact congrArg (fun z : State => { z with intcon1 := x.intcon1 ||| 0x0008#16 }) h.rest
        · refine .inr ⟨x.deviceReset true, ?_, ?_, ?_, (h.conflict hp).symm.trans hk, x.deviceReset_justReset true, x.deviceReset_trapr⟩
          · show (raiseHard .address x .none).bind _ = _
            rw [hz]; rfl
          · show x.mem = s.mem
            rw [h.rest]
          · rw [← Bool.not_eq_true] at hp ⊢; exact mt h.stays hp
      · exact hp ▸ goes (raiseHard_pending x .address e hp) h hp
    · exact soft (mathBits d) (mathBits_soft d) (by simp) rfl

theorem CpuAct.causes_act (start : State) (act : CpuAct) : ∀ c ∈ act.causes start, ActCause c := by
  have access {cs : List Cause} (h : AccessCauses cs) : ∀ c ∈ cs, ActCause c := fun c hc => (h c hc).imp id .inl
  have math {cs : List Cause} (h : ∀ c ∈ cs, ∃ d, c = .math d) : ∀ c ∈ cs, ActCause c := fun c hc => .inr (.inr (h c hc))
  have one {b b' : Bool} {d : MathDetail} : ∀ c ∈ (if b then (if b' then [Cause.math d] else []) else []), ∃ d, c = .math d := by
    cases b <;> cases b' <;> simp
  cases act with
  | read src wide => exact access (operandReadCauses_access start src 0 wide)
  | write dst wide v => exact access (operandWriteCauses_access start dst wide)
  | macFetch space ea => exact access (pagedCauses_access _)
  | accOverflow acc | accCatastrophic acc => cases acc <;> exact math one

/-- A change of an accumulator leaves the level of the CPU. -/
theorem accChanged_cpuIpl (x : State) (n : AccName) : (x.accChanged n).cpuIpl = x.cpuIpl := by
  have mask (j : Nat) (h : j < 8) : accStatusBits.getLsbD j = false := by
    have : j = 0 ∨ j = 1 ∨ j = 2 ∨ j = 3 ∨ j = 4 ∨ j = 5 ∨ j = 6 ∨ j = 7 := by omega
    rcases this with h | h | h | h | h | h | h | h <;> subst h <;> rfl
  have hsr (y : State) : (y.setSrFree accStatusBits).cpuIpl = y.cpuIpl :=
    cpuIpl_of_srl (extract_congr 0 8 fun j _ h => mergeBits_keeps _ _ _ _ (mask j (by omega))) rfl
  refine (hsr _).trans ?_
  cases n
  · rfl
  · rfl

/-- The effect of one act whose data space writes are inhibited. -/
theorem Inhibited.effect (h : Inhibited s x) (act : CpuAct) (start : State) (e : Earlier) :
    ∃ y, act.effect start true e x = .go y ∧ Inhibited s y ∧ y.trapPending .address = x.trapPending .address := by
  have acc (n : AccName) : ∃ y, Flow.go (if x.cfg.hasDsp then x.accChanged n else x) = .go y ∧ Inhibited s y
      ∧ y.trapPending .address = x.trapPending .address := by
    split
    · have hf := x.accChanged_frame n
      have hl := accChanged_cpuIpl x n
      generalize x.accChanged n = y at hf hl ⊢
      exact ⟨y, rfl, h.of_frame (by rw [hf]) hl, by rw [hf]; rfl⟩
    · exact ⟨x, rfl, h, rfl⟩
  cases act with
  | read src wide | macFetch space ea => exact ⟨x, rfl, h, rfl⟩
  | write dst wide v =>
    cases dst with
    | reg i => exact ⟨_, rfl, h.of_frame rfl rfl, rfl⟩
    | indirect i disp | direct ea | paged ea => exact ⟨x, rfl, h, rfl⟩
  | accOverflow n | accCatastrophic n => exact acc n

/-- The hard trap events of inhibited acts are address errors. -/
theorem Inhibited.hardSince {y : State} (h : Inhibited s x) (h' : Inhibited s y) (hx : x.trapPending .address = false)
    (hy : y.trapPending .address = false) : x.hardSince y = [] := by
  have generic {z : State} (hz : Inhibited s z) : z.trapPending .genericHard = s.trapPending .genericHard := by
    show z.intcon4.getLsbD 0 = _
    rw [hz.rest]; rfl
  refine State.hardSince_nil x y fun t ht => ?_
  rcases ht with rfl | rfl | rfl
  · exact h'.oscillator.trans h.oscillator.symm
  · exact hy.trans hx.symm
  · exact (generic h').trans (generic h).symm

theorem Inhibited.drawEarlier (h : Inhibited s x) (earlier : List Trap) : Inhibited s (x.drawEarlier earlier).2 := by
  have hf := x.drawEarlier_frame earlier
  generalize (x.drawEarlier earlier).2 = y at hf ⊢
  exact h.of_frame (by rw [hf]) (by rw [hf]; rfl)

/-- One act of an instruction whose data space writes are inhibited. -/
theorem Inhibited.run {start : State} (act : CpuAct) {earlier : List Trap} (h : Inhibited s x)
    (he : earlier = [] ∨ x.trapPending .address = true) :
    (∃ y, act.run start true earlier x = .go y ∧ Inhibited s y
        ∧ (x.trapPending .address = true ∨ Cause.address ∈ act.causes start → y.trapPending .address = true))
      ∨ ∃ z, act.run start true earlier x = .cut z ∧ ConflictReset s z := by
  have hd := h.drawEarlier earlier
  have hp : (x.drawEarlier earlier).2.trapPending .address = x.trapPending .address := by rw [x.drawEarlier_frame earlier]; rfl
  have hnone : (x.drawEarlier earlier).1 = .none ∨ (x.drawEarlier earlier).2.trapPending .address = true :=
    he.imp (fun h => by rw [h]; rfl) hp.trans
  show (∃ y, (Machine.raiseAll (act.causes start) (x.drawEarlier earlier).2 (x.drawEarlier earlier).1).bind _ = .go y ∧ _)
    ∨ ∃ z, (Machine.raiseAll (act.causes start) (x.drawEarlier earlier).2 (x.drawEarlier earlier).1).bind _ = .cut z ∧ _
  rcases hd.raiseAll (act.causes_act start) hnone with ⟨y, hy, hi, hst, ha⟩ | ⟨z, hz, hc⟩
  · obtain ⟨u, hu, hiu, hpu⟩ := hi.effect act start (x.drawEarlier earlier).1
    rw [hy]
    exact .inl ⟨u, hu, hiu, fun k => hpu.trans (k.elim (fun k => hst (hp.trans k)) ha)⟩
  · rw [hz]
    exact .inr ⟨z, rfl, hc⟩

/-- The acts of an instruction whose data space writes are inhibited. -/
theorem Inhibited.runActs {start : State} (acts : List CpuAct) {earlier : List Trap} {missed : Bool} (hm : s.meanwhile = [])
    (h : Inhibited s x) (he : earlier = [] ∨ x.trapPending .address = true) :
    (∃ u, runActs start true earlier missed acts x = .go u ∧ Inhibited s u
        ∧ (x.trapPending .address = true ∨ Cause.address ∈ acts.flatMap (CpuAct.causes start) → u.trapPending .address = true))
      ∨ (∃ u, runActs start true earlier missed acts x = .cut u ∧ ConflictReset s u)
      ∨ ∃ f, runActs start true earlier missed acts x = .fault f := by
  induction acts generalizing x earlier missed with
  | nil =>
    unfold Machine.runActs
    cases missed
    · exact .inl ⟨x, rfl, h, fun k => k.resolve_right nofun⟩
    · exact .inr (.inr ⟨_, rfl⟩)
  | cons act acts ih =>
    unfold Machine.runActs
    rcases h.run (start := start) act he with ⟨y, hy, hi, hp⟩ | ⟨z, hz, hc⟩
    · have hmeet : (if acts.isEmpty then Flow.go y else y.meet) = .go y := by
        split
        · rfl
        · exact State.meet_idle y (by rw [hi.rest]; exact hm)
      have hearlier : earlier ++ x.hardSince y = [] ∨ y.trapPending .address = true := by
        cases hpy : y.trapPending .address
        · have hpx : x.trapPending .address = false := by
            rw [← Bool.not_eq_true] at hpy ⊢; exact fun k => hpy (hp (.inl k))
          rw [he.resolve_right (by rw [hpx]; decide), h.hardSince hi hpx hpy]
          exact .inl rfl
        · exact .inr rfl
      rw [hy, Flow.bind_go, hmeet, Flow.bind_go]
      refine (ih (missed := missed || act.readsUnwritten start x) hi hearlier).imp
        (fun ⟨u, hu, hiu, hk⟩ => ⟨u, hu, hiu, fun k => hk ?_⟩) id
      rw [List.flatMap_cons, List.mem_append, ← or_assoc] at k
      exact k.imp hp id
    · rw [hz]
      exact .inr (.inl ⟨z, rfl, hc⟩)

/-! ### An entry through an odd Stack Pointer -/

/-- The first push of an entry that the address error inhibits resets the device on a hard trap conflict (R95, R272). -/
theorem push_inhibited_conflict (s : State) (v : Word) (ha : Cause.address ∈ s.pushCauses) (hp : s.trapPending .address = false)
    (hk : s.hardConflict .address = true) :
    ∃ w, s.push v true [] = .cut (State.deviceReset { s with intcon1 := w } true) := by
  obtain ⟨w, h⟩ := raiseAll_access_conflict s.pushCauses_access.1 ha hp hk
  refine ⟨w, ?_⟩
  show (raiseAll s.pushCauses s .none).bind _ = _
  rw [h]; rfl

/-- An inhibited push that makes no hard trap conflict. -/
theorem push_inhibited_go (s : State) (v : Word) (earlier : List Trap)
    (hk : s.trapPending .address = true ∨ earlier = [] ∧ s.hardConflict .address = false) :
    ∃ n, s.push v true earlier = .go { s with w := s.w.set 15 (s.sp + 2#16)
                                              intcon1 := s.intcon1 ||| accessBits s.pushCauses, draws := n } := by
  have hd := s.drawEarlier_frame earlier
  have hn : earlier = [] → (s.drawEarlier earlier).1 = .none := fun h => by rw [h]; rfl
  unfold State.push
  generalize s.drawEarlier earlier = e at hd hn ⊢
  refine ⟨e.2.draws, ?_⟩
  have hc : e.2.hardConflict .address e.1 = s.hardConflict .address e.1 := by rw [hd]; rfl
  have hpe : e.2.trapPending .address = s.trapPending .address := by rw [hd]; rfl
  rcases raiseAll_access s.pushCauses e.2 s.pushCauses_access.1 e.1 with h | ⟨x, -, hce, -, hpx⟩
  · simp only [h, Flow.bind_go, Bool.true_or, if_true]
    rw [hd]; rfl
  · rcases hk with hp | ⟨he, hnc⟩
    · rw [hpe, hp] at hpx; cases hpx
    · rw [hc, hn he, hnc] at hce; cases hce

theorem State.stackFlagged_nil (s : State) : s.stackFlagged [] = s := rfl

theorem dropCleared_advance {s u : State} (hroom : s.roomAfter 1) (hpc : u.pc = s.pc) :
    u.dropCleared.advance 1 = (u.advance 1).dropCleared := by
  have hu : u.roomAfter 1 := by unfold State.roomAfter State.pcAligned; rw [hpc]; exact hroom
  rw [u.advance_room 1 hu, State.advance_room u.dropCleared 1 hu]
  rfl

/-- What follows the pushes of an entry writes no memory and leaves the trap flags of INTCON1. -/
theorem Entered.keeps {src : Source} {p : State} (h : Entered src p t) :
    t.mem = p.mem ∧ t.trapPending .address = p.trapPending .address := by
  have hmem : t.mem = p.mem := by rw [h.frame]
  have hflags : t.intcon1 = p.intcon1 := by rw [h.frame]
  exact ⟨hmem, congrArg (BitVec.getLsbD · 3) hflags⟩

/-! ### What each kind of write does -/

section
variable {dst : Operand} {wide : Bool} {v : Word} (hroom : s.roomAfter 1)
  (hd : (∃ i disp, dst = .indirect i disp) ∨ ∃ ea, dst = .direct ea) (ha : Cause.address ∉ s.operandWriteCauses dst wide)
include hroom hd ha

/-- A write to memory (R89, R95). -/
theorem write_memory (hwf : Memory.wf s.mem = true) (hi : s.dataImplemented (s.operandEa dst 0).toNat = true)
    (hr : s.registerAt (s.operandEa dst 0).toNat = none) :
    ∃ t, execOutside [.write dst wide v] s = .next t
      ∧ (∀ a, t.readByte a = if a = (s.operandEa dst 0).toNat then some (v.extractLsb' 0 8)
            else if wide = true ∧ a = (s.operandEa dst 0).toNat + 1 then some (v.extractLsb' 8 8) else s.readByte a)
      ∧ t = { s.stackFlagged (s.operandWriteCauses dst wide) with mem := t.mem, pc := s.pc + 2#24 } := by
  have hgo := State.dataWrite_of_memory (s.stackFlagged (s.operandWriteCauses dst wide)) (s.operandEa dst 0) wide v hr .none
  have hread := store_readByte (s := s.stackFlagged (s.operandWriteCauses dst wide)) (ea := s.operandEa dst 0) (v := v) hwf hi
    (write_even hd ha)
  have hframe := State.store_frame (s.stackFlagged (s.operandWriteCauses dst wide)) (s.operandEa dst 0) wide v
  rw [execOutside_write hd ha, hgo]
  generalize State.store _ _ _ _ = y at hread hframe ⊢
  exact ⟨_, Flow.thenAdvance_room s y hroom (by rw [hframe]; rfl), hread, by rw [hframe]⟩

/-- A write where nothing is implemented (R92). -/
theorem write_unimplemented (hi : s.dataImplemented (s.operandEa dst 0).toNat = false) :
    execOutside [.write dst wide v] s = .next { s.stackFlagged (s.operandWriteCauses dst wide) with pc := s.pc + 2#24 } := by
  have hgo := State.dataWrite_of_memory (s.stackFlagged (s.operandWriteCauses dst wide)) (s.operandEa dst 0) wide v
    (registerAt_unimplemented hi) .none
  have hsame : (s.stackFlagged (s.operandWriteCauses dst wide)).store (s.operandEa dst 0) wide v
      = s.stackFlagged (s.operandWriteCauses dst wide) := by
    unfold State.store
    exact if_neg (by rw [show State.dataImplemented (s.stackFlagged _) _ = false from hi]; decide)
  rw [execOutside_write hd ha, hgo, hsame]
  exact Flow.thenAdvance_room s _ hroom rfl

end

/-- A word written at the address of a register is a software write of it (R98). -/
theorem write_registerWord {dst : Operand} {v : Word} {r : RegName} (hroom : s.roomAfter 1)
    (hd : (∃ i disp, dst = .indirect i disp) ∨ ∃ ea, dst = .direct ea) (hr : s.registerAt (s.operandEa dst 0).toNat = some r)
    (hc : s.operandWriteCauses dst true = []) (ht : exec (.write r v) s = .next t) :
    execOutside [.write dst true v] s = .next t.dropCleared := by
  have ha : Cause.address ∉ s.operandWriteCauses dst true := by rw [hc]; exact List.not_mem_nil
  rw [execOutside_write hd ha, hc, s.stackFlagged_nil, s.dataWrite_of_register _ v r hr]
  have ht : (s.writeReg r 0xFFFF#16 v).thenAdvance = .next t := ht
  rcases (Flow.thenAdvance_eq_next _ t).mp ht with hw | ⟨u, hw, rfl⟩
  · obtain ⟨y, conflict, rfl⟩ := ResetFrom.justReset (State.writeReg_cut (A := s.otherReach .asleep) hw)
    rw [hw, y.dropCleared_deviceReset]
    rfl
  · rw [hw]
    exact congrArg Host.Outcome.next (dropCleared_advance hroom (writeReg_pc hw))

/-- A byte written at the address of a register is a software write of its low or high byte (R98). -/
theorem execOutside_writeByte {dst : Operand} {v : Word} {r : RegName}
    (hd : (∃ i disp, dst = .indirect i disp) ∨ ∃ ea, dst = .direct ea) (hr : s.registerAt (s.operandEa dst 0).toNat = some r)
    (hc : s.operandWriteCauses dst false = []) :
    execOutside [.write dst false v] s = ((s.writeReg r (if (s.operandEa dst 0).getLsbD 0 then 0xFF00#16 else 0x00FF#16)
      (if (s.operandEa dst 0).getLsbD 0 then v <<< 8 else v)).bind fun x => .go x.dropCleared).thenAdvance := by
  have ha : Cause.address ∉ s.operandWriteCauses dst false := by rw [hc]; exact List.not_mem_nil
  rw [execOutside_write hd ha, hc, s.stackFlagged_nil, dataWrite_byte hr]

/-- A write of a working register. -/
theorem write_workingRegister (i : Fin 16) (wide : Bool) (v : Word) (hroom : s.roomAfter 1) :
    execOutside [.write (.reg i) wide v] s = .next
      { s with w := s.w.set i.val (if wide then v else (s.reg i &&& 0xFF00#16) ||| (v &&& 0x00FF#16)), pc := s.pc + 2#24 } := by
  have hgo := execOutside_act (act := .write (.reg i) wide v) hroom rfl rfl rfl
  rw [show CpuAct.readsUnwritten s s (.write (.reg i) wide v) = false from rfl, if_neg (by decide)] at hgo
  refine hgo.trans (congrArg (fun x => Host.Outcome.next { s with w := s.w.set i.val x, pc := s.pc + 2#24 }) ?_)
  cases wide
  · rfl
  · exact mergeBits_full _ _

/-- No access of acts without trap events raises the address error. -/
theorem actsInhibited_nil {acts : List CpuAct} (h : acts.flatMap (CpuAct.causes x) = []) : x.actsInhibited acts = false := by
  unfold State.actsInhibited; rw [h]; rfl

/-- The events between two writes come after the first and before the second (R101, D14). -/
theorem two_writes {a1 a2 : Word} {wide1 wide2 : Bool} {v1 v2 : Word} {es : List Event} {rest : List (List Event)}
    (hm : s.meanwhile = es :: rest) (hr : s.registerAt a1.toNat = none) (hc1 : s.operandWriteCauses (.direct a1) wide1 = [])
    (hc2 : s.operandWriteCauses (.direct a2) wide2 = []) (ht : execOutside [.write (.direct a1) wide1 v1] s = .next t) :
    (∀ u, happen es { s with mem := t.mem, meanwhile := rest } = .cut u →
        execOutside [.write (.direct a1) wide1 v1, .write (.direct a2) wide2 v2] s = .next u)
      ∧ (∀ u, happen es { s with mem := t.mem, meanwhile := rest } = .go u →
        execOutside [.write (.direct a1) wide1 v1, .write (.direct a2) wide2 v2] s =
          execOutside [.write (.direct a2) wide2 v2] u) := by
  have hn1 : Cause.address ∉ s.operandWriteCauses (.direct a1) wide1 := by rw [hc1]; exact List.not_mem_nil
  have hmem : t.mem = (s.store a1 wide1 v1).mem := by
    rw [execOutside_write (.inr ⟨a1, rfl⟩) hn1, hc1, s.stackFlagged_nil, s.operandEa_direct,
      s.dataWrite_of_memory a1 wide1 v1 hr] at ht
    obtain ⟨p, d, hp⟩ := (s.store a1 wide1 v1).advance_eq 1
    rw [Flow.thenAdvance_go, hp] at ht
    rw [← Host.Outcome.next.inj ht]
  have hframe := s.store_frame a1 wide1 v1
  have heff : (CpuAct.write (.direct a1) wide1 v1).effect s false .none s = .go (s.store a1 wide1 v1) := by
    rw [writeAct_effect (.inr ⟨a1, rfl⟩), s.operandEa_direct, s.dataWrite_of_memory a1 wide1 v1 hr]
  have hi : s.actsInhibited [.write (.direct a1) wide1 v1, .write (.direct a2) wide2 v2] = false := by
    refine actsInhibited_nil ?_
    simp only [List.flatMap_cons, List.flatMap_nil, CpuAct.causes, hc1, hc2, List.append_nil]
  have hmeet : (s.store a1 wide1 v1).meet = happen es { s with mem := t.mem, meanwhile := rest } := by
    rw [hmem, hframe]
    unfold State.meet
    rw [show State.meanwhile { s with mem := (s.store a1 wide1 v1).mem } = es :: rest from hm]
  have hrun : execOutside [.write (.direct a1) wide1 v1, .write (.direct a2) wide2 v2] s
      = ((happen es { s with mem := t.mem, meanwhile := rest }).bind
          (runActs s false [] false [.write (.direct a2) wide2 v2])).thenAdvance := by
    have hsince : s.hardSince (s.store a1 wide1 v1) = [] :=
      State.hardSince_nil _ _ fun h _ => by rw [hframe]; cases h <;> rfl
    have hfirst := runActs_first (acts := [.write (.direct a2) wide2 v2]) (by simp)
      (show CpuAct.causes s (.write (.direct a1) wide1 v1) = [] from hc1) heff rfl hsince
    unfold execOutside
    rw [hi, hfirst, hmeet]
  refine ⟨fun u hu => by rw [hrun, hu]; rfl, fun u hu => ?_⟩
  have hcfg : u.cfg = s.cfg := (happen_go hu).cfg
  have hfree2 : u.actsInhibited [.write (.direct a2) wide2 v2] = false := by
    refine actsInhibited_nil ?_
    simp only [List.flatMap_cons, List.flatMap_nil, CpuAct.causes, directCauses_congr hcfg, hc2, List.append_nil]
  rw [hrun, hu, Flow.bind_go, runActs_directWrite hcfg]
  unfold execOutside
  rw [hfree2]

/-- An instruction one of whose accesses raises the address error writes nothing (R95). -/
theorem inhibited_acts {acts : List CpuAct} (hm : s.meanwhile = []) (ha : Cause.address ∈ acts.flatMap (CpuAct.causes s))
    (ht : execOutside acts s = .next t) :
    t.mem = s.mem
      ∧ ((s.trapPending .address = false ∧ s.hardConflict .address = true ∧ t.justReset ∧ t.rcon.getLsbD 15 = true)
        ∨ ((s.trapPending .address = true ∨ s.hardConflict .address = false) ∧ t.trapPending .address = true
          ∧ t = { s with w := t.w, sr := t.sr, accA := t.accA, accB := t.accB, intcon1 := t.intcon1, pc := t.pc,
                         draws := t.draws })) := by
  have hi : s.actsInhibited acts = true := List.contains_iff_mem.mpr ha
  have ht : (runActs s (s.actsInhibited acts) [] false acts s).thenAdvance = .next t := ht
  rw [hi] at ht
  rcases Inhibited.runActs (start := s) acts hm (.refl s) (.inl rfl) with ⟨u, hu, hiu, hp⟩ | ⟨u, hu, hmem, hc⟩ | ⟨f, hf⟩
  · rw [hu] at ht
    obtain rfl := Host.Outcome.next.inj ht
    have hpu := hp (.inr ha)
    obtain ⟨p, d, hf⟩ := u.advance_eq 1
    rw [hf]
    have hmem : u.mem = s.mem := by rw [hiu.rest]
    exact ⟨hmem, .inr ⟨hiu.address hpu, hpu,
      congrArg (fun x : State => { x with pc := p, draws := d }) hiu.rest⟩⟩
  · rw [hu] at ht
    obtain rfl := Host.Outcome.next.inj ht
    exact ⟨hmem, .inl hc⟩
  · rw [hf] at ht; cases ht

/-- An entry through an odd Stack Pointer writes nothing (R91, R95). -/
theorem odd_entry {src : Source} {level : Nat} (hodd : s.sp.getLsbD 0 = true) (ht : enterException src level s = .next t) :
    t.mem = s.mem
      ∧ ((s.trapPending .address = false ∧ s.hardConflict .address = true ∧ t.justReset ∧ t.rcon.getLsbD 15 = true)
        ∨ ((s.trapPending .address = true ∨ s.hardConflict .address = false) ∧ t.trapPending .address = true)) := by
  have ha := s.pushCauses_access.2 hodd
  have hi : s.pushInhibited = true := s.pushInhibited_iff.mpr (List.mem_append_left _ ha)
  have hframe : s.pushFrame (frameA s.pc s.sfa) (frameB s.srl s.ipl3 s.pc)
      = (s.push (frameA s.pc s.sfa) true []).bind fun x => x.push (frameB s.srl s.ipl3 s.pc) true (s.hardSince x) := by
    unfold State.pushFrame; rw [hi]
  have pending (x : Word) : (x ||| accessBits s.pushCauses).getLsbD 3 = true := by
    rw [BitVec.getLsbD_or, accessBits_getLsbD]; simp [ha]
  by_cases hc : s.trapPending .address = false ∧ s.hardConflict .address = true
  · obtain ⟨hp, hk⟩ := hc
    obtain ⟨w, hw⟩ := push_inhibited_conflict s (frameA s.pc s.sfa) ha hp hk
    rw [hw, Flow.bind_cut] at hframe
    rcases enterException_next src level s t ht with hcut | ⟨pushed, v, hgo, -⟩
    · rw [hframe] at hcut
      cases hcut
      exact ⟨rfl, .inl ⟨hp, hk, State.deviceReset_justReset _ true, State.deviceReset_trapr _⟩⟩
    · rw [hframe] at hgo; cases hgo
  · have hor : s.trapPending .address = true ∨ s.hardConflict .address = false := by
      rcases not_and_or.mp hc with h | h
      · exact .inl (by simpa using h)
      · exact .inr (by simpa using h)
    obtain ⟨n, hn⟩ := push_inhibited_go s (frameA s.pc s.sfa) [] (hor.imp id fun h => ⟨rfl, h⟩)
    rw [hn, Flow.bind_go] at hframe
    obtain ⟨m, hm⟩ := push_inhibited_go { s with w := s.w.set 15 (s.sp + 2#16)
                                                 intcon1 := s.intcon1 ||| accessBits s.pushCauses, draws := n }
      (frameB s.srl s.ipl3 s.pc) (s.hardSince _) (.inl (pending _))
    rw [hm] at hframe
    rcases enterException_next src level s t ht with hcut | ⟨pushed, v, hgo, -, rfl⟩
    · rw [hframe] at hcut; cases hcut
    · rw [hframe] at hgo
      obtain ⟨hmem, hp⟩ := (pushed.entered src level v s.entryMin s.entryMax).keeps
      have hpushed := Flow.go.inj hgo
      refine ⟨hmem.trans (by rw [← hpushed]), .inr ⟨hor, hp.trans ?_⟩⟩
      rw [← hpushed]
      show (s.intcon1 ||| accessBits s.pushCauses ||| accessBits _).getLsbD 3 = true
      rw [BitVec.getLsbD_or, pending]
      rfl

/-- Settles O60: by the checks of each write. -/
theorem dataWritesFollowAccessChecks : Obligations.DataWritesFollowAccessChecks := by
  refine ⟨fun s dst wide v hroom hd ha => ⟨write_memory hroom hd ha, write_unimplemented hroom hd ha,
      fun r t hw hr hc ht => ?_, fun r mask w hw hr hc hmask hval => ⟨fun u hu => ⟨?_, fun hdis j hj => ?_⟩, fun u hu => ?_⟩⟩,
    fun s i wide v hroom => write_workingRegister i wide v hroom, fun s t a1 a2 wide1 wide2 v1 v2 es rest _ => two_writes,
    fun s t acts => inhibited_acts, fun s t src level => odd_entry⟩
  · subst hw
    exact write_registerWord hroom hd hr hc ht
  · subst hw
    rw [execOutside_writeByte hd hr hc, ← hmask, ← hval, hu]
    exact Flow.thenAdvance_room s u.dropCleared hroom (show u.pc = s.pc from writeReg_pc hu)
  · rw [State.writeReg_rawReg hu hdis]
    exact writeBits_getLsbD_kept (.inl hj)
  · subst hw
    rw [execOutside_writeByte hd hr hc, ← hmask, ← hval, hu]
    rfl

end Sys2Proof.Machine
end

section
/-! The entry sequence clears no flag (spec/60_exceptions.md R246, R272): what its two pushes can do to the flags. -/

namespace Sys2Proof.Machine

variable {s t u x y z : State}

/-! ### One push -/

/-- What a push that goes on has done: its trap events, then its write where no address error inhibits it. -/
theorem push_go {v : Word} {inhibited : Bool} {earlier : List Trap} (h : s.push v inhibited earlier = .go y) :
    ∃ x u, raiseAll s.pushCauses (s.drawEarlier earlier).2 (s.drawEarlier earlier).1 = .go x
      ∧ (u = x ∨ x.dataWrite s.sp true v (s.drawEarlier earlier).1 = .go u) ∧ y = u.setReg 15 (u.sp + 2#16) := by
  unfold State.push at h
  obtain ⟨x, hx, h⟩ := (Flow.bind_eq_go _ _ _).mp h
  obtain ⟨u, hu, h⟩ := (Flow.bind_eq_go _ _ _).mp h
  refine ⟨x, u, hx, ?_, (Flow.go.inj h).symm⟩
  split at hu
  · exact .inl (Flow.go.inj hu).symm
  · exact .inr hu

/-- What cuts a push short: the conflict of its trap events, or of its write. -/
theorem push_cut {v : Word} {inhibited : Bool} {earlier : List Trap} (h : s.push v inhibited earlier = .cut y) :
    raiseAll s.pushCauses (s.drawEarlier earlier).2 (s.drawEarlier earlier).1 = .cut y
      ∨ ∃ x, raiseAll s.pushCauses (s.drawEarlier earlier).2 (s.drawEarlier earlier).1 = .go x
          ∧ Cause.address ∉ s.pushCauses ∧ x.dataWrite s.sp true v (s.drawEarlier earlier).1 = .cut y := by
  unfold State.push at h
  rcases (Flow.bind_eq_cut _ _ _).mp h with h | ⟨x, hx, h⟩
  · exact .inl h
  · rcases (Flow.bind_eq_cut _ _ _).mp h with h | ⟨u, -, h⟩
    · split at h
      · cases h
      · rename_i hn
        refine .inr ⟨x, hx, fun ha => hn ?_, h⟩
        rw [List.contains_iff_mem.mpr ha, Bool.or_true]
    · cases h

/-- The trap events of a push that goes on set STKERR and ADDRERR and nothing else. -/
theorem pushCauses_raised {e : Earlier} (h : raiseAll s.pushCauses u e = .go x) :
    x = { u with intcon1 := u.intcon1 ||| accessBits s.pushCauses } := by
  rcases raiseAll_access s.pushCauses u s.pushCauses_access.1 e with h' | ⟨v, h', -⟩ <;> cases h.symm.trans h'
  rfl

/-! ### What a push keeps of the flags -/

/-- The flags that the entry sequence clears only where it writes their register (R246). -/
structure KeepsFlags (D : RegName → Prop) (s t : State) : Prop where
  ifs : ∀ x : Fin 16, ¬ D (.ifs x) → t.ifs[x] = s.ifs[x]
  iec : ∀ x : Fin 16, ¬ D (.iec x) → t.iec[x] = s.iec[x]
  ipc : ∀ x : Fin 62, ¬ D (.ipc x) → t.ipc[x] = s.ipc[x]
  intcon1 : ¬ D .intcon1 → ∀ j, s.intcon1.getLsbD j = true → t.intcon1.getLsbD j = true
  intcon3 : ¬ D .intcon3 → t.intcon3 = s.intcon3
  intcon4 : ¬ D .intcon4 → s.intcon4.getLsbD 0 = true → t.intcon4.getLsbD 0 = true

variable {D : RegName → Prop}

theorem KeepsFlags.trans (h : KeepsFlags D s t) (k : KeepsFlags D t u) : KeepsFlags D s u where
  ifs x hx := (k.ifs x hx).trans (h.ifs x hx)
  iec x hx := (k.iec x hx).trans (h.iec x hx)
  ipc x hx := (k.ipc x hx).trans (h.ipc x hx)
  intcon1 hd j hj := k.intcon1 hd j (h.intcon1 hd j hj)
  intcon3 hd := (k.intcon3 hd).trans (h.intcon3 hd)
  intcon4 hd h0 := k.intcon4 hd (h.intcon4 hd h0)

theorem KeepsFlags.of_eq (h1 : t.ifs = s.ifs) (h2 : t.iec = s.iec) (h3 : t.ipc = s.ipc) (h4 : ∃ b, t.intcon1 = s.intcon1 ||| b)
    (h5 : t.intcon3 = s.intcon3) (h6 : t.intcon4 = s.intcon4) : KeepsFlags D s t where
  ifs x _ := by rw [h1]
  iec x _ := by rw [h2]
  ipc x _ := by rw [h3]
  intcon1 _ j hj := by
    obtain ⟨b, hb⟩ := h4
    rw [hb, BitVec.getLsbD_or, hj]; rfl
  intcon3 _ := h5
  intcon4 _ h0 := by rw [h6]; exact h0

theorem KeepsFlags.writeReg {r : RegName} {mask v : Word} {e : Earlier} (hd : D r) (h : s.writeReg r mask v e = .go u) :
    KeepsFlags D s u := by
  have others (r' : RegName) (hr : ¬ D r') (h4 : r = .intcon2 → r' ≠ .intcon4) (h2 : r' ≠ .intcon2) : u.rawReg r' = s.rawReg r' :=
    (State.writeReg_wrote h).others r' ⟨fun e => hr (e ▸ hd), h4, fun _ => h2⟩
  refine ⟨fun x hx => others (.ifs x) hx nofun nofun, fun x hx => others (.iec x) hx nofun nofun,
    fun x hx => others (.ipc x) hx nofun nofun, fun hx j hj => ?_, fun hx => others .intcon3 hx nofun nofun, fun hx h0 => ?_⟩
  · rw [show u.intcon1 = s.intcon1 from others .intcon1 hx nofun nofun]
    exact hj
  · by_cases hr : r = .intcon2
    · subst hr
      unfold State.writeReg at h
      simp only at h
      split at h
      · cases h
      · rcases s.writeIntcon2_cases mask v e rfl with ⟨hw, -⟩ | ⟨z, hw, -⟩ <;> cases h.symm.trans hw
        show (if mask.getLsbD 13 && v.getLsbD 13 then s.intcon4 ||| 0x0001#16 else s.intcon4).getLsbD 0 = true
        split
        · rw [BitVec.getLsbD_or, h0]; rfl
        · exact h0
    · rw [show u.intcon4 = s.intcon4 from others .intcon4 hx (fun h => absurd h hr) nofun]
      exact h0

theorem KeepsFlags.dataWrite {ea v : Word} {e : Earlier} (hd : ∀ r, s.registerAt ea.toNat = some r → D r)
    (h : s.dataWrite ea true v e = .go u) : KeepsFlags D s u := by
  cases hr : s.registerAt ea.toNat with
  | none =>
    rw [State.dataWrite_of_memory s ea true v hr e] at h
    rw [← Flow.go.inj h, State.store_frame]
    exact .of_eq rfl rfl rfl ⟨0#16, (BitVec.or_zero).symm⟩ rfl rfl
  | some r =>
    rw [s.dataWrite_of_register ea v r hr e] at h
    obtain ⟨x, hx, h⟩ := (Flow.bind_eq_go _ _ _).mp h
    rw [← Flow.go.inj h]
    exact (KeepsFlags.writeReg (hd r hr) hx).trans (.of_eq rfl rfl rfl ⟨0#16, (BitVec.or_zero).symm⟩ rfl rfl)

theorem KeepsFlags.push {v : Word} {inhibited : Bool} {earlier : List Trap}
    (hd : ∀ r, s.registerAt s.sp.toNat = some r → D r) (h : s.push v inhibited earlier = .go y) : KeepsFlags D s y := by
  obtain ⟨x, u, hx, hu, rfl⟩ := push_go h
  have hx := pushCauses_raised hx
  rw [s.drawEarlier_frame earlier] at hx
  have raised : KeepsFlags D s x := by
    rw [hx]; exact .of_eq rfl rfl rfl ⟨_, rfl⟩ rfl rfl
  have hreg : x.registerAt s.sp.toNat = s.registerAt s.sp.toNat := by rw [hx]; rfl
  have moved (z : State) (w : Word) : KeepsFlags D z (z.setReg 15 w) :=
    .of_eq rfl rfl rfl ⟨0#16, (BitVec.or_zero).symm⟩ rfl rfl
  rcases hu with rfl | hu
  · exact raised.trans (moved _ _)
  · exact (raised.trans (.dataWrite (fun r hr => hd r (hreg.symm.trans hr)) hu)).trans (moved _ _)

/-- A register that a data write leaves. -/
theorem DataWrote.rawReg {ea : Word} {r' : RegName} (h : DataWrote ea s u)
    (hr : ∀ r, s.registerAt ea.toNat = some r → untouchedBy r r') : u.rawReg r' = s.rawReg r' := by
  cases hs : s.registerAt ea.toNat with
  | none => rw [h.memory hs]; cases r' <;> rfl
  | some r => exact (h.register r hs).2.1 r' (hr r hs)

/-- What a push leaves of the hard trap flags, where it does not write their register. -/
theorem push_flags {v : Word} {inhibited : Bool} {earlier : List Trap} (h : s.push v inhibited earlier = .go y) :
    y.cfg = s.cfg
      ∧ ((∀ r, s.registerAt s.sp.toNat = some r → untouchedBy r .intcon1) → y.intcon1 = s.intcon1 ||| accessBits s.pushCauses)
      ∧ ((∀ r, s.registerAt s.sp.toNat = some r → untouchedBy r .intcon4) → y.intcon4 = s.intcon4) := by
  obtain ⟨x, u, hx, hu, rfl⟩ := push_go h
  have hx := pushCauses_raised hx
  rw [s.drawEarlier_frame earlier] at hx
  subst hx
  rcases hu with rfl | hu
  · exact ⟨rfl, fun _ => rfl, fun _ => rfl⟩
  · rcases State.dataWrite_cases _ _ _ _ _ with ⟨hw, -⟩ | ⟨z, hz, hw | hw⟩ <;> cases hu.symm.trans hw
    exact ⟨hz.cpu.cfg, fun h1 => hz.rawReg (r' := .intcon1) h1, fun h4 => hz.rawReg (r' := .intcon4) h4⟩

/-! ### The conflict of a push -/

theorem mem_hardSince {g : Trap} : g ∈ s.hardSince t ↔ trapIsSoft g = false ∧ t.trapPending g = true ∧ s.trapPending g = false := by
  unfold State.hardSince
  rw [List.mem_filter, Bool.and_eq_true, Bool.not_eq_true']
  exact and_congr_left' (by cases g <;> decide)

/-- The registers of the hard trap flags (R272, R44). -/
def HoldsHardTrap (r : RegName) : Prop := r = .intcon1 ∨ r = .intcon2 ∨ r = .intcon4

/-- A device Reset with TRAPR = 1. -/
def TrapReset (z : State) : Prop := z.justReset ∧ z.rcon.getLsbD 15 = true

/-- What a hard trap conflict of a write of register r comes from: a hard trap that the write makes pending, in conflict with the
state before it or, for INTCON1, with the other flag that the same write sets. -/
def WriteConflict (s : State) (r : RegName) (e : Earlier) : Prop :=
  HoldsHardTrap r ∧ ∃ h, trapIsSoft h = false ∧ s.trapPending h = false
    ∧ (s.hardConflict h e = true ∨ (r = .intcon1 ∧ h = .address ∧ s.trapPending .oscillator = false))

theorem writeReg_conflict {r : RegName} {mask v : Word} {e : Earlier} (h : s.writeReg r mask v e = .cut z) :
    TrapReset z ∧ WriteConflict s r e := by
  have rises {new : Word} {j : Nat} (hj : s.rises new j = true) : s.intcon1.getLsbD j = false := by
    unfold State.rises at hj
    rw [Bool.and_eq_true, Bool.not_eq_true'] at hj
    exact hj.2
  constructor
  · rcases s.writeReg_cases r mask v e with ⟨hw, -⟩ | ⟨u, -, hw | hw⟩ <;> cases h.symm.trans hw
    exact ⟨u.deviceReset_justReset true, u.deviceReset_trapr⟩
  · cases r with
    | intcon1 =>
      rcases s.writeIntcon1_cases mask v e rfl with ⟨n, hw, -⟩ | ⟨u, -, ⟨h1, hc⟩ | ⟨h3, hc⟩⟩
      · cases h.symm.trans hw
      · exact ⟨.inl rfl, .oscillator, rfl, rises h1, .inl hc⟩
      · exact ⟨.inl rfl, .address, rfl, rises h3, hc.imp_right fun h1 => ⟨rfl, rfl, rises h1⟩⟩
    | intcon2 =>
      unfold State.writeReg at h
      simp only at h
      split at h
      · cases h
      · rcases s.writeIntcon2_cases mask v e rfl with ⟨hw, -⟩ | ⟨u, -, -, hp, hc⟩
        · cases h.symm.trans hw
        · exact ⟨.inr (.inl rfl), .genericHard, rfl, hp, .inl hc⟩
    | intcon4 =>
      rcases s.writeIntcon4_cases mask v e rfl with ⟨hw, -⟩ | ⟨u, -, -, hp, hc⟩
      · cases h.symm.trans hw
      · exact ⟨.inr (.inr rfl), .genericHard, rfl, hp, .inl hc⟩
    | sr => rw [State.writeReg_sr] at h; cases h
    | _ => cases h

theorem dataWrite_conflict {ea v : Word} {e : Earlier} (h : s.dataWrite ea true v e = .cut z) :
    TrapReset z ∧ ∃ r, s.registerAt ea.toNat = some r ∧ WriteConflict s r e := by
  cases hr : s.registerAt ea.toNat with
  | none => rw [s.dataWrite_of_memory ea true v hr e] at h; cases h
  | some r =>
    rw [s.dataWrite_of_register ea v r hr e] at h
    rcases (Flow.bind_eq_cut _ _ _).mp h with h | ⟨x, -, h⟩
    · exact (writeReg_conflict h).imp_right fun hc => ⟨r, rfl, hc⟩
    · cases h

/-- The stack error of a push changes no hard trap conflict of its write. -/
theorem WriteConflict.of_stackError {r : RegName} {e : Earlier} {n : Nat} {b : Word} (h1 : b.getLsbD 1 = false) (h3 : b.getLsbD 3 = false)
    (h : WriteConflict { s with intcon1 := s.intcon1 ||| b, draws := n } r e) : WriteConflict s r e := by
  have pending (t : Trap) (ht : trapIsSoft t = false) :
      State.trapPending { s with intcon1 := s.intcon1 ||| b, draws := n } t = s.trapPending t := by
    cases t with
    | oscillator => exact (BitVec.getLsbD_or ..).trans (by rw [h1, Bool.or_false]; rfl)
    | address => exact (BitVec.getLsbD_or ..).trans (by rw [h3, Bool.or_false]; rfl)
    | genericHard => rfl
    | stack | math | dmac | genericSoft => cases ht
  obtain ⟨hr, t, ht, hp, hc⟩ := h
  rw [pending t ht] at hp
  rw [pending .oscillator rfl] at hc
  refine ⟨hr, t, ht, hp, hc.imp_left fun hk => ?_⟩
  refine hardConflict_mono ht ?_ ?_ ?_ hk
  · rfl
  · rfl
  · exact fun g hg k => (pending g hg).symm.trans k

/-- What cuts a push short is a conflict of its address error, or of its write at the address of a register. -/
theorem push_conflict {v : Word} {inhibited : Bool} {earlier : List Trap} (h : s.push v inhibited earlier = .cut z) :
    TrapReset z
      ∧ ((Cause.address ∈ s.pushCauses ∧ s.trapPending .address = false
            ∧ s.hardConflict .address (s.drawEarlier earlier).1 = true)
          ∨ ∃ r, s.registerAt s.sp.toNat = some r ∧ WriteConflict s r (s.drawEarlier earlier).1) := by
  rcases push_cut h with h | ⟨x, hx, ha, h⟩
  · rw [s.drawEarlier_frame earlier] at h
    rcases raiseAll_access s.pushCauses _ s.pushCauses_access.1 (s.drawEarlier earlier).1 with hw | ⟨b, hw, hk, ha, hp⟩ <;>
      cases h.symm.trans hw
    exact ⟨⟨State.deviceReset_justReset _ true, State.deviceReset_trapr _⟩, .inl ⟨ha, hp, hk⟩⟩
  · have hx := pushCauses_raised hx
    rw [s.drawEarlier_frame earlier] at hx
    subst hx
    obtain ⟨hz, r, hr, hc⟩ := dataWrite_conflict h
    refine ⟨hz, .inr ⟨r, hr, hc.of_stackError ?_ ?_⟩⟩ <;> rw [accessBits_getLsbD] <;> simp [ha]

/-! ### The two pushes of an entry -/

/-- The first push makes a hard trap other than the address error pending only by a write of its register. -/
theorem hardSince_push {v : Word} {inhibited : Bool} {earlier : List Trap} {g : Trap} (h : s.push v inhibited earlier = .go y)
    (hg : g ∈ s.hardSince y) (ha : g ≠ .address) : ∃ r, s.registerAt s.sp.toNat = some r ∧ HoldsHardTrap r := by
  obtain ⟨hsoft, hy, hs⟩ := mem_hardSince.mp hg
  obtain ⟨-, flags1, flags4⟩ := push_flags h
  by_contra hn
  rw [not_exists] at hn
  cases g with
  | address => exact ha rfl
  | oscillator =>
    have hy : y.intcon1.getLsbD 1 = true := hy
    rw [flags1 fun r hr => ⟨fun e => hn r ⟨hr, .inl e.symm⟩, nofun, nofun⟩, BitVec.getLsbD_or, accessBits_getLsbD,
      show s.intcon1.getLsbD 1 = false from hs] at hy
    simp at hy
  | genericHard =>
    have hy : y.intcon4.getLsbD 0 = true := hy
    rw [flags4 fun r hr => ⟨fun e => hn r ⟨hr, .inr (.inr e.symm)⟩, fun e => absurd ⟨hr, .inr (.inl e)⟩ (hn r), nofun⟩] at hy
    exact absurd (hs.symm.trans hy) (by decide)
  | stack | math | dmac | genericSoft => cases hsoft

/-- A push that clears OSCFAIL writes INTCON1, and so keeps SGHT. -/
theorem push_clears_oscillator {v : Word} {inhibited : Bool} {earlier : List Trap} (h : s.push v inhibited earlier = .go y)
    (hs : s.trapPending .oscillator = true) (hy : y.trapPending .oscillator = false) :
    s.registerAt s.sp.toNat = some .intcon1 := by
  by_contra hn
  have hy : y.intcon1.getLsbD 1 = false := hy
  rw [(push_flags h).2.1 fun r hr => ⟨fun e => hn (e ▸ hr), nofun, nofun⟩, BitVec.getLsbD_or,
    show s.intcon1.getLsbD 1 = true from hs] at hy
  cases hy

theorem push_genericHard {v : Word} {inhibited : Bool} {earlier : List Trap} (h : s.push v inhibited earlier = .go y)
    (hr : s.registerAt s.sp.toNat = some .intcon1) (hs : s.trapPending .genericHard = true) :
    y.trapPending .genericHard = true := by
  show y.intcon4.getLsbD 0 = true
  rw [(push_flags h).2.2 fun r hr' => ?_]
  · exact hs
  · cases hr.symm.trans hr'
    exact ⟨nofun, nofun, nofun⟩

/-- A conflict that counts the first push's events is one of its own, or one of the draw with such an event. -/
theorem hardConflict_second {h : Trap} (hc : x.hardConflict h (x.drawEarlier (s.hardSince x)).1 = true) :
    x.hardConflict h = true ∨ ∃ g, g ∈ s.hardSince x := by
  cases he : s.hardSince x with
  | nil => rw [he] at hc; exact .inl hc
  | cons g gs => exact .inr ⟨g, List.mem_cons_self⟩

/-- The conflicts that O25 names: u is the state before the push that met one, D r says that a push wrote register r. -/
def EntryConflict (D : RegName → Prop) (s u : State) : Prop :=
  (Cause.address ∈ u.pushCauses ∧ u.trapPending .address = false ∧ u.hardConflict .address = true)
    ∨ ((D .intcon1 ∨ D .intcon2 ∨ D .intcon4)
      ∧ ∃ h, trapIsSoft h = false ∧ u.trapPending h = false
          ∧ (u.hardConflict h = true ∨ ∃ g, g ≠ h ∧ trapIsSoft g = false ∧ s.trapPending g = false))

theorem HoldsHardTrap.written {r : RegName} (h : HoldsHardTrap r) (hd : D r) : D .intcon1 ∨ D .intcon2 ∨ D .intcon4 := by
  rcases h with rfl | rfl | rfl
  · exact .inl hd
  · exact .inr (.inl hd)
  · exact .inr (.inr hd)

/-- The first push. -/
theorem first_push_conflict {v : Word} {inhibited : Bool} (hd : ∀ r, s.registerAt s.sp.toNat = some r → D r)
    (h : s.push v inhibited [] = .cut z) : TrapReset z ∧ EntryConflict D s s := by
  obtain ⟨hz, hc | ⟨r, hr, hw, t, ht, hp, hc⟩⟩ := push_conflict h
  · exact ⟨hz, .inl hc⟩
  · refine ⟨hz, .inr ⟨hw.written (hd r hr), t, ht, hp, hc.imp_right ?_⟩⟩
    rintro ⟨-, rfl, ho⟩
    exact ⟨.oscillator, nofun, rfl, ho⟩

/-- The second push, whose conflict may count a hard trap event of the first (R279). -/
theorem second_push_conflict {v w : Word} {inhibited : Bool} (hd : ∀ r, s.registerAt s.sp.toNat = some r → D r)
    (hd' : ∀ r, x.registerAt x.sp.toNat = some r → D r) (hx : s.push v inhibited [] = .go x)
    (h : x.push w inhibited (s.hardSince x) = .cut z) : TrapReset z ∧ EntryConflict D s x := by
  have other {g t : Trap} (hg : g ∈ s.hardSince x) (hp : x.trapPending t = false) :
      g ≠ t ∧ trapIsSoft g = false ∧ s.trapPending g = false := by
    obtain ⟨hsoft, hgx, hgs⟩ := mem_hardSince.mp hg
    refine ⟨fun e => ?_, hsoft, hgs⟩
    rw [e, hp] at hgx
    cases hgx
  obtain ⟨hz, ⟨ha, hp, hc⟩ | ⟨r, hr, hw, t, ht, hp, hc | ⟨-, rfl, ho⟩⟩⟩ := push_conflict h
  · refine ⟨hz, (hardConflict_second hc).imp (fun hk => ⟨ha, hp, hk⟩) fun ⟨g, hg⟩ => ?_⟩
    obtain ⟨r, hr, hw⟩ := hardSince_push hx hg (other hg hp).1
    exact ⟨hw.written (hd r hr), .address, rfl, hp, .inr ⟨g, other hg hp⟩⟩
  · exact ⟨hz, .inr ⟨hw.written (hd' r hr), t, ht, hp, (hardConflict_second hc).imp_right fun ⟨g, hg⟩ => ⟨g, other hg hp⟩⟩⟩
  · refine ⟨hz, .inr ⟨hw.written (hd' r hr), .address, rfl, hp, ?_⟩⟩
    cases hos : s.trapPending .oscillator with
    | false => exact .inr ⟨.oscillator, nofun, rfl, hos⟩
    | true =>
      cases hgs : s.trapPending .genericHard with
      | false => exact .inr ⟨.genericHard, nofun, rfl, hgs⟩
      | true =>
        refine .inl ((x.hardConflict_iff _).mpr (.inl ⟨.genericHard, ?_, show (13 : Nat) < 15 by decide⟩))
        exact push_genericHard hx (push_clears_oscillator hx hos ho) hgs

/-- What an entry does after its pushes. -/
theorem Entered.keepsFlags {src : Source} (h : Entered src s t) : KeepsFlags D s t :=
  .of_eq (by rw [h.frame]) (by rw [h.frame]) (by rw [h.frame]) ⟨0#16, by rw [h.frame, BitVec.or_zero]⟩ (by rw [h.frame])
    (by rw [h.frame])

/-- Settles O25: by the two pushes, and the frame of what follows them. -/
theorem entryClearsNoFlag : Obligations.EntryClearsNoFlag := by
  intro s t src level h
  have hd (r : RegName) (hr : s.registerAt s.sp.toNat = some r) : s.writesData (.enter src level) r :=
    ⟨s.sp, s.sp_mem_pushAddresses, hr⟩
  have hd' {x : State} (hx : s.push (frameA s.pc s.sfa) s.pushInhibited [] = .go x) (r : RegName)
      (hr : x.registerAt x.sp.toNat = some r) : s.writesData (.enter src level) r :=
    ⟨x.sp, s.second_sp_mem_pushAddresses hx, (State.registerAt_of_cfg s x _ (push_flags hx).1).symm.trans hr⟩
  rcases enterException_next src level s t h with hf | ⟨p, v, hf, -, rfl⟩ <;> unfold State.pushFrame at hf
  · left
    rcases (Flow.bind_eq_cut _ _ _).mp hf with hf | ⟨x, hx, hf⟩
    · obtain ⟨⟨hr, htrapr⟩, hc⟩ := first_push_conflict hd hf
      exact ⟨hr, htrapr, s, .inl rfl, hc⟩
    · obtain ⟨⟨hr, htrapr⟩, hc⟩ := second_push_conflict hd (hd' hx) hx hf
      exact ⟨hr, htrapr, x, .inr hx, hc⟩
  · right
    obtain ⟨x, hx, hf⟩ := (Flow.bind_eq_go _ _ _).mp hf
    obtain ⟨hifs, hiec, hipc, h1, h3, h4⟩ :=
      ((KeepsFlags.push hd hx).trans (.push (hd' hx) hf)).trans (p.entered src level v _ _).keepsFlags
    exact ⟨hifs, hiec, hipc, h1, h3, h4⟩

end Sys2Proof.Machine
end
